-- ==== Sys2Proof/Word.lean ====
section
/-!
DEFINITION. The word types of the block (00_scope.md rule R7: "Every byte is 8 bits"; concentrations are 16-bit unsigned).
-/
namespace Sys2Proof

/-- A byte of a frame, of an acknowledgement or of a byte register (rule R7). -/
abbrev Byte := BitVec 8

/-- A 16-bit value: a CMD word (rule R19) or a concentration (rules R23 and R24). -/
abbrev Half := BitVec 16

end Sys2Proof
end

