-- ==== Sys2Proof/Config.lean ====
section
/-!
DEFINITION. What an implementation fixes (the OPEN and sized parameters of 00_scope.md rule R7), the forms of the LINK's answers,
and the free values of the model: the LINK's answers to the calls for which the state lists none.
-/
namespace Sys2Proof

/-- The parameters of rule R7 that the spec leaves open or gives a range. They are plain data of State that no step changes, so
that a statement about every state is a statement about every value of them ("A model takes every OPEN parameter as an argument"). -/
structure Params where
  /-- `EP_WIDTH`, OPEN: the width of an endpoint identifier (decision D29). -/
  epWidth : Nat
  /-- `LINK_RETAINS_UNREAD`, OPEN: whether unread bytes reach a later receive (rule R47, decision D21). -/
  linkRetainsUnread : Bool
  /-- `RX_BUF_CAP`: 260, legal range 8 to 260 (decision D7). -/
  rxBufCap : Nat
  deriving DecidableEq, Repr

/-- The parameter values State.reset is written with: `RX_BUF_CAP` as rule R7 gives it. DESIGN CHOICE for the two OPEN ones
(assumption 2): no statement rests on them. -/
def Params.standard : Params := { epWidth := 8, linkRetainsUnread := true, rxBufCap := 260 }

/-- The legal range of `RX_BUF_CAP` (rule R7, decision D7). The OPEN parameters have no illegal value. -/
abbrev Params.wf (p : Params) : Prop := 8 ≤ p.rxBufCap ∧ p.rxBufCap ≤ 260

/-- How the LINK answers one receive (rules R43 and R47): the bytes the sensor sent that reach the link by the end of the
receive's window, whether the receive completes in time, and how many stream bytes a timed-out receive loses. -/
structure RxAnswer where
  /-- The bytes that newly arrive on the receive stream. Any bytes, in any amount (rule R46). -/
  arrived : List Byte
  /-- False: the receive times out whatever has arrived ("Either outcome may be drawn at every receive"). -/
  inTime : Bool
  /-- The draw `j` of rule R43: bytes consumed by a receive that times out (used up to `n - 1`). -/
  lost : Nat
  deriving DecidableEq, Repr, Inhabited

/-- The LINK's draw for a TxSend (rule R42): it has not returned yet, or it returned the count `k`. -/
inductive TxDraw where
  | pending
  | sent (k : Nat)
  deriving DecidableEq, Repr, Inhabited

/-- The LINK's draw for an RxRecv (rule R43): it has not ended yet, or it ended with an answer. -/
inductive RxDraw where
  | pending
  | answer (a : RxAnswer)
  deriving DecidableEq, Repr

/-- FREE VALUE (assumption 4): the LINK's draw for a TxSend where the state lists none, by the number of free draws used before.
It may be a call that does not return (rules R42 and R156). It has no body, so nothing can be proved of it. -/
opaque Config.freeTx : Nat → TxDraw

/-- FREE VALUE (assumption 4): the count of a TxSend for which the state lists no draw, where the run assumes LINK_TX_LIVE (rules R42
and R156). It has no body, so nothing can be proved of it. -/
opaque Config.freeSent : Nat → Nat

/-- FREE VALUE (assumption 4): the LINK's answer to a receive where the state lists none, by the number of free draws used before.
It is an answer, since "Every RxRecv ends" (rule R156). "The content of the receive stream is not constrained by the spec" (rule
R46): it has no body, so nothing can be proved of it. -/
opaque Config.freeRx : Nat → RxAnswer

end Sys2Proof
end

