-- ==== Sys2Proof/Syntax.lean ====
section
/-!
DEFINITION. The operations of the block, one constructor per row of spec/opcode_table.json (30_encoding.md rules R65, R71 and
R72), and the host accesses that encode them.
-/
namespace Sys2Proof

/-- The registers a host may read (10_state.md rule R17; the operand of `RD reg`, 30_encoding.md rule R72). -/
inductive ReadReg where
  | stat | resFine | resCoarse | resCoeff | code
  deriving DecidableEq, Repr

/-- One operation of the host interface. Every command carries the ARG byte of its CMD word, since it is latched in CUR_ARG
even where the command ignores it (10_state.md rules R19 and R28). -/
inductive Instr where
  | startMeas (arg : Byte)        -- START_MEAS, opcode 0x01 (rule R116)
  | stopMeas (arg : Byte)         -- STOP_MEAS, opcode 0x02 (rule R117)
  | readResults (arg : Byte)      -- READ_RESULTS, opcode 0x04 (rule R118)
  | setCoeff (c : Byte)           -- SET_COEFF c, opcode 0x08 (rule R119)
  | readCoeff (arg : Byte)        -- READ_COEFF, opcode 0x10 (rule R120)
  | stopAutoSend (arg : Byte)     -- STOP_AUTO_SEND, opcode 0x20 (rule R121)
  | enableAutoSend (arg : Byte)   -- ENABLE_AUTO_SEND, opcode 0x40 (rule R122)
  | bind (ep : Nat)               -- BIND ep (rule R110)
  | rd (reg : ReadReg)            -- RD reg (rule R17)
  deriving DecidableEq, Repr

/-- What the host does at the register interface: the encoded form of an operation (rule R71). Any register number and any
value can be written down; the decoder says which are operations. -/
inductive HostAccess where
  | write (reg value : Nat)
  | read (reg : Nat)
  deriving DecidableEq, Repr

end Sys2Proof
end

