-- ==== Sys2Proof/Machine/State.lean ====
section
/-!
DEFINITION. Everything the spec gives the machine, as plain data: the block (10_state.md rule R37, element by element), the LINK
agent (20_memory.md rules R40 to R47), the HOST's side of the register interface, and the parameters (00_scope.md rule R7).
-/
namespace Sys2Proof.Machine

open Sys2Proof

/-- PHASE, the ENGINE's position in an operation (rule R18); an enumeration, as the rule says. -/
inductive Phase where
  | idle | build | tx | rxHdr | rxBody | check
  deriving DecidableEq, Repr

/-- The reasons of a sticky fault (60_exceptions.md rule R133). The machine records one in `Block.fault`, as a next state; a
step that is asked of a state with a recorded fault answers with it as an outcome, since "the ENGINE takes no further step".
All five are the spec's own and safe: the spec gives the access no other meaning. -/
inductive Fault where
  /-- UNBOUND: a CMD write while BOUND = 0 (rule R111). Raised by the seven commands. Safe. -/
  | unbound
  /-- BUSY_ACCESS: a CMD or BIND write, or a read of CODE or a result register, while STAT.BUSY = 1 (rule R36). Safe. -/
  | busyAccess
  /-- ILLEGAL_OPCODE: a CMD write whose OPC is not one of the seven (rule R67). Raised for a refused decoding. Safe. -/
  | illegalOpcode
  /-- ILLEGAL_ACCESS: an access that the register of that number does not allow (rule R17). Raised for a refused decoding. Safe. -/
  | illegalAccess
  /-- UNWRITTEN_READ: a read of CODE or a result register that nothing has written since reset (rule R26). Raised by RD. Safe. -/
  | unwrittenRead
  deriving DecidableEq, Repr

/-- The reasons a step gives no meaning. -/
inductive Refusal where
  /-- An instruction without a meaning yet: no arm of exec answers it. Safe. -/
  | notModelled (mnemonic : String)
  /-- A host write whose value does not fit the register's width (CMD has 16 bits, BIND has `EP_WIDTH`; rules R19 and R27): no
  host can make such an access. Raised by step alone, never by exec. Safe (assumption 6). -/
  | valueTooWide
  deriving DecidableEq, Repr

/-- The statuses a command ends with (rule R126). -/
inductive Status where
  | ok | badArgument | negativeAck | badResponse | badChecksum | txIncomplete
  deriving DecidableEq, Repr

/-- The outcomes of the ack readers (42_ack_validator.md rule R93). -/
inductive AckOutcome where
  | positive | negative | error | badChecksum
  deriving DecidableEq, Repr

/-- A byte buffer (TXBUF, RXBUF): (index, byte) cells in strictly rising order of index; an index that is not listed is
unwritten. -/
abbrev Buffer := List Host.Cell

/-- The buffer's canonical form. -/
abbrev Buffer.wf (b : Buffer) : Prop := b.Pairwise (fun x y => x.1 < y.1)

/-- The unread receive-stream bytes of each endpoint (rules R35 and R40): (endpoint, bytes) in strictly rising order, an endpoint
with no unread byte not listed. -/
abbrev Streams := List (Nat × List Byte)

/-- The streams' canonical form. -/
abbrev Streams.wf (u : Streams) : Prop := u.Pairwise (fun x y => x.1 < y.1) ∧ ∀ c ∈ u, c.2 ≠ []

/-- One link call of the block that has ended, on the endpoint in EP. -/
inductive LinkCall where
  /-- TxSend of the frame returned `k` (rule R42). -/
  | txSend (ep : Option Nat) (frame : List Byte) (k : Nat)
  /-- A TxSend of the frame was cut off by a reset (rule R145): what reached the sensor is not known. -/
  | txCut (ep : Option Nat) (frame : List Byte)
  /-- RxRecv returned these bytes (rule R43). -/
  | rxOk (ep : Option Nat) (bytes : List Byte)
  /-- RxRecv of `n` bytes timed out and consumed these bytes of the stream (rule R43). -/
  | rxTimeout (ep : Option Nat) (n : Nat) (consumed : List Byte)
  deriving DecidableEq, Repr

/-- The block's own state: every element of rule R37. `none` is the spec's own reset state "unwritten" (rules R26 and R37), in
which an element "holds no value". -/
structure Block where
  /-- STAT.BUSY (rule R20). -/
  busy : Bool
  /-- BOUND, mirrored in STAT.BOUND (rules R20 and R27). -/
  bound : Bool
  /-- CODE, 3 bits (rules R20 and R21). -/
  code : Option (BitVec 3)
  /-- EP, the bound endpoint, `EP_WIDTH` bits (rule R27). -/
  ep : Option Nat
  /-- RES_FINE (rule R23). -/
  resFine : Option Half
  /-- RES_COARSE (rule R24). -/
  resCoarse : Option Half
  /-- RES_COEFF (rule R25). -/
  resCoeff : Option Byte
  /-- PHASE (rule R18). -/
  phase : Phase
  /-- CUR_OP (rule R28). -/
  curOp : Option Byte
  /-- CUR_ARG (rule R28). -/
  curArg : Option Byte
  /-- TXBUF (rule R29). -/
  txBuf : Buffer
  /-- TXLEN (rule R29). -/
  txLen : Option Nat
  /-- RXBUF (rule R30). -/
  rxBuf : Buffer
  /-- ACK_L (rule R31). -/
  ackL : Option Byte
  /-- ACK_OP (rule R31). -/
  ackOp : Option Byte
  /-- ACK_P (rule R31). -/
  ackP : Option (List Byte)
  /-- The sticky fault mark (rules R37 and R133). -/
  fault : Option Fault
  deriving DecidableEq, Repr

/-- The LINK agent: the byte transport and the sensor behind it (rules R6 and R41). Its draws are inputs, held as plain data. -/
structure Link where
  /-- The draws for the TxSend calls to come; when none is listed the draw is free (assumption 4). -/
  txDraws : List TxDraw
  /-- Whether the run assumes LINK_TX_LIVE, "every TxSend eventually returns" (rule R156, decision D27): then a free draw for a
  TxSend is a count. No step changes it (assumption 17). -/
  txLive : Bool
  /-- The draws for the RxRecv calls to come; when none is listed the answer is free (assumption 4). -/
  rxDraws : List RxDraw
  /-- How many free draws have been used: the model's own counter (assumption 4). -/
  freeCount : Nat
  /-- The bytes the sensor has sent that no receive has consumed, by endpoint (rules R35 and R47). -/
  unread : Streams
  /-- The link calls that have ended, oldest first: what went over the two streams (rule R40). -/
  log : List LinkCall
  deriving DecidableEq, Repr

/-- What happens at the block's boundary, in the order it happens. -/
inductive HostEvent where
  /-- A register access. -/
  | access (a : HostAccess)
  /-- The reset event (rule R144). `left` is what a reset DURING A COMMAND leaves unread on the bound endpoint's stream, "any
  value" (rule R145, 93_implementation_defined.md U12); a reset while idle does not use it. -/
  | reset (left : List Byte)
  /-- The host makes no access: the ENGINE goes on with its operation. -/
  | wait
  deriving DecidableEq, Repr

/-- The HOST's side of the register interface. -/
structure Port where
  /-- The events to come; when there is none the block goes on, or waits for an access (rule R146). -/
  inbox : List HostEvent
  /-- The register last read and the value the read returned, zero-extended to 16 bits. -/
  rdata : Option (ReadReg × Half)
  deriving DecidableEq, Repr

structure State where
  block : Block
  link : Link
  port : Port
  /-- The parameters (rule R7). No step changes them. -/
  params : Params
  deriving DecidableEq, Repr

/-- The reset value of every element (rules R37 and R144). -/
def Block.reset : Block where
  busy := false
  bound := false
  code := none
  ep := none
  resFine := none
  resCoarse := none
  resCoeff := none
  phase := .idle
  curOp := none
  curArg := none
  txBuf := []
  txLen := none
  rxBuf := []
  ackL := none
  ackOp := none
  ackP := none
  fault := none

/-- A link nothing has happened on yet, with no draw listed and LINK_TX_LIVE not assumed. DESIGN CHOICE (assumptions 3 and 17). -/
def Link.quiet : Link := { txDraws := [], txLive := false, rxDraws := [], freeCount := 0, unread := [], log := [] }

/-- The machine right after reset, with the parameters `p`. -/
def State.resetWith (p : Params) : State :=
  { block := Block.reset, link := Link.quiet, port := { inbox := [], rdata := none }, params := p }

/-- The machine right after reset. -/
def State.reset : State := State.resetWith Params.standard

end Sys2Proof.Machine
end

