-- ==== Sys2Proof/Machine/Checksum.lean ====
section
/-!
DEFINITION. The checksum generator and verifier's one function (40_checksum.md).
-/
namespace Sys2Proof.Machine

open Sys2Proof

/-- `Σ s`: the sum of the bytes of `s` as an unbounded natural number (00_scope.md rule R9). -/
def byteSum : List Byte → Nat
  | [] => 0
  | b :: bs => b.toNat + byteSum bs

/-- `CHECKSUM(s) = (65536 - Σ s) mod 256`, with the mathematical remainder (40_checksum.md rule R76). -/
def checksum (s : List Byte) : Byte :=
  BitVec.ofInt 8 ((65536 - (byteSum s : Int)) % 256)

end Sys2Proof.Machine
end

