-- ==== Sys2Proof/Machine/Flags.lean ====
section
/-!
DEFINITION. The block "has no condition codes or flags. The only status information is CODE, STAT.BUSY and STAT.BOUND"
(10_state.md rule R32): the STAT word and the status codes.
-/
namespace Sys2Proof.Machine

open Sys2Proof

/-- The number of a status in CODE (60_exceptions.md rule R126). -/
def statusCode : Status → BitVec 3
  | .ok => 0
  | .badArgument => 1
  | .negativeAck => 2
  | .badResponse => 3
  | .badChecksum => 4
  | .txIncomplete => 5

/-- STAT as read: BUSY in bit 0, BOUND in bit 1, bits 7:2 hardwired 0 (rule R20). -/
def statWord (busy bound : Bool) : Byte :=
  (0 : BitVec 6) ++ (BitVec.ofBool bound ++ BitVec.ofBool busy)

end Sys2Proof.Machine
end

