-- ==== Sys2Proof/Machine/Operands.lean ====
section
/-!
DEFINITION. The fixed byte values and sizes of the protocol (30_encoding.md rule R56, 00_scope.md rule R7), and the operand
forms: the fields of a frame or acknowledgement and their assembly (30_encoding.md rules R63 and R64).
-/
namespace Sys2Proof.Machine

open Sys2Proof

/-- `HDR`, the first byte of every command frame (rule R56). -/
def hdr : Byte := 0x68
/-- `ACK_POS`, both bytes of the positive simple ack (rule R56). -/
def ackPos : Byte := 0xA5
/-- `ACK_NEG`, both bytes of the negative ack of either shape (rule R56). -/
def ackNeg : Byte := 0x96
/-- `CPX_MARK`, the first byte of a positive complex ack (rule R56). -/
def cpxMark : Byte := 0x40

/-- `MAX_TX_PAYLOAD` (rule R7, decision D6). -/
def maxTxPayload : Nat := 254
/-- `TXBUF_SIZE` = `MAX_TX_PAYLOAD + 4` (rule R7). -/
def txBufSize : Nat := maxTxPayload + 4
/-- `CAP_RESULTS` (rule R7, decision D8). -/
def capResults : Nat := 4
/-- `CAP_COEFF` (rule R7, decision D8). -/
def capCoeff : Nat := 1

/-- A 16-bit value from two payload bytes, the more significant first: `(zext_16(hi) << 8) | zext_16(lo)` (rules R48 and R64). -/
def be16 (hi lo : Byte) : Half := (hi.setWidth 16 <<< 8) ||| lo.setWidth 16

/-- The BUILD_FRAME operand pair `(n, pay)`: ABSENT or a sequence of exactly `n` bytes (rule R84). The bytes it stands for. -/
def payloadBytes (n : Nat) : Option (List Byte) → List Byte
  | none => []
  | some p => p.take n

end Sys2Proof.Machine
end

