-- ==== Sys2Proof/Machine/Ops.lean ====
section
/-!
DEFINITION. The named operations over the state: the buffers, the receive streams, the two link primitives (20_memory.md rules
R42, R43 and R47), the register updates, ending an operation (60_exceptions.md rule R129), raising a fault (rule R133) and the
reset event (70_reset_and_hazards.md rules R144 and R145).
-/
namespace Sys2Proof.Machine

open Sys2Proof

/-! ## Buffers (rules R29 and R30) -/

/-- The byte at an index; `none` where it is unwritten. -/
def Buffer.read : Buffer → Nat → Option Byte
  | [], _ => none
  | (a, b) :: t, i => if a = i then some b else Buffer.read t i

/-- Write the byte at an index. -/
def Buffer.write : Buffer → Nat → Byte → Buffer
  | [], i, v => [(i, v)]
  | (a, b) :: t, i, v =>
    if i < a then (i, v) :: (a, b) :: t
    else if i = a then (i, v) :: t
    else (a, b) :: Buffer.write t i v

/-- Write bytes at successive indices, the first at `i`. -/
def Buffer.writeAll (buf : Buffer) (i : Nat) : List Byte → Buffer
  | [] => buf
  | b :: bs => Buffer.writeAll (Buffer.write buf i b) (i + 1) bs

/-- The bytes at indices `lo` to `hi - 1`, in order: `BUF[lo .. hi)` (00_scope.md rule R9). -/
def Buffer.slice (buf : Buffer) (lo hi : Nat) : List Byte :=
  (buf.filter fun c => decide (lo ≤ c.1) && decide (c.1 < hi)).map Prod.snd

/-! ## Receive streams (rules R35, R40 and R47) -/

/-- The unread bytes of an endpoint. -/
def Streams.get : Streams → Nat → List Byte
  | [], _ => []
  | (e, bs) :: t, ep => if e = ep then bs else Streams.get t ep

/-- Set the unread bytes of an endpoint; an endpoint with none is not listed. -/
def Streams.set : Streams → Nat → List Byte → Streams
  | [], ep, bs => if bs = [] then [] else [(ep, bs)]
  | (e, cs) :: t, ep, bs =>
    if ep < e then (if bs = [] then (e, cs) :: t else (ep, bs) :: (e, cs) :: t)
    else if ep = e then (if bs = [] then t else (ep, bs) :: t)
    else (e, cs) :: Streams.set t ep bs

/-- The unread bytes on the stream of the bound endpoint; with no endpoint there is no stream. -/
def State.unread (s : State) : List Byte :=
  match s.block.ep with
  | some ep => s.link.unread.get ep
  | none => []

/-- The streams with the bound endpoint's unread bytes replaced. -/
def State.unreadSet (s : State) (bs : List Byte) : Streams :=
  match s.block.ep with
  | some ep => s.link.unread.set ep bs
  | none => s.link.unread

/-! ## Updates -/

/-- PHASE <- p. -/
def State.setPhase (p : Phase) (s : State) : State := { s with block := { s.block with phase := p } }

/-- The start of a command: CUR_OP <- opc, CUR_ARG <- arg, STAT.BUSY <- 1 (rule R111), PHASE <- BUILD (rule R91). -/
def State.latch (opc arg : Byte) (s : State) : State :=
  { s with block := { s.block with curOp := some opc, curArg := some arg, busy := true, phase := .build } }

/-- A frame is written to TXBUF from index 0, and TXLEN is its length (rule R85). -/
def State.setFrame (frame : List Byte) (len : Nat) (s : State) : State :=
  { s with block := { s.block with txBuf := s.block.txBuf.writeAll 0 frame, txLen := some len } }

/-- Received bytes are written to RXBUF from index `i` (rules R94 and R97). -/
def State.storeRx (i : Nat) (bs : List Byte) (s : State) : State :=
  { s with block := { s.block with rxBuf := s.block.rxBuf.writeAll i bs } }

/-- ACK_L, ACK_OP and ACK_P are written (rule R104). -/
def State.setAck (l op : Option Byte) (p : List Byte) (s : State) : State :=
  { s with block := { s.block with ackL := l, ackOp := op, ackP := some p } }

/-- RES_FINE and RES_COARSE are written, in one step (rules R118 and R151). -/
def State.setResults (fine coarse : Half) (s : State) : State :=
  { s with block := { s.block with resFine := some fine, resCoarse := some coarse } }

/-- RES_COEFF is written (rule R120). -/
def State.setCoeff (v : Byte) (s : State) : State := { s with block := { s.block with resCoeff := some v } }

/-- EP <- ep, BOUND <- 1 (rule R110). -/
def State.setBinding (ep : Nat) (s : State) : State :=
  { s with block := { s.block with ep := some ep, bound := true } }

/-- The value a register read returns to the host. -/
def State.setRdata (r : ReadReg) (v : Half) (s : State) : State :=
  { s with port := { s.port with rdata := some (r, v) } }

/-- The LINK's state is replaced. -/
def State.setLink (l : Link) (s : State) : State := { s with link := l }

/-- The rest of the events to come. -/
def State.setInbox (es : List HostEvent) (s : State) : State := { s with port := { s.port with inbox := es } }

/-- `finish(status)`: CODE <- status, STAT.BUSY <- 0, PHASE <- IDLE, in one step (rules R12 and R129). -/
def finish (st : Status) (s : State) : State :=
  { s with block := { s.block with code := some (statusCode st), busy := false, phase := .idle } }

/-- `raise Fault(reason)`: the sticky mark is recorded and nothing else changes (rules R12 and R133). -/
def raise (r : Fault) (s : State) : State := { s with block := { s.block with fault := some r } }

/-! ## Faults as outcomes -/

/-- Taking a fault: the one entry every faulting access goes through (rule R133). -/
def takeFault (r : Fault) (s : State) : Host.Outcome State Fault Refusal := .next (raise r s)

/-- "Once a fault is recorded, no access takes a step at all" (rules R20 and R133): the answer `k` to an access stands only where
the fault mark is clear. -/
def unlessFaulted (s : State) (k : Host.Outcome State Fault Refusal) : Host.Outcome State Fault Refusal :=
  match s.block.fault with
  | some r => .fault r
  | none => k

/-! ## The reset event -/

/-- What a reset leaves of the link: a reset while idle does not touch it (rule R144); a reset during a command cuts a TxSend
off and leaves any unread bytes on the bound stream (rule R145, 93_implementation_defined.md U12). -/
def resetLink (left : List Byte) (s : State) : Link :=
  if s.block.busy then
    { s.link with
      unread := s.unreadSet left
      log := if s.block.phase = .tx
        then s.link.log ++ [.txCut s.block.ep (s.block.txBuf.slice 0 (s.block.txLen.getD 0))]
        else s.link.log }
  else s.link

/-- The reset event: every element of the block takes its reset value (rules R37, R144 and R145). -/
def takeReset (left : List Byte) (s : State) : State :=
  { s with block := Block.reset, link := resetLink left s }

/-! ## The link primitives -/

/-- The free draw for a TxSend: any draw, but a returned count where the run assumes LINK_TX_LIVE (rule R156, assumption 4). -/
def Link.freeTxDraw (l : Link) : TxDraw :=
  if l.txLive then .sent (Config.freeSent l.freeCount) else Config.freeTx l.freeCount

/-- The LINK's next draw for a TxSend, and the LINK with that draw used; a free draw where none is listed (assumption 4). -/
def Link.nextTx (l : Link) : TxDraw × Link :=
  match l.txDraws with
  | d :: ds => (d, { l with txDraws := ds })
  | [] => (l.freeTxDraw, { l with freeCount := l.freeCount + 1 })

/-- `TxSend(frame)` (rule R42): the count the LINK reports, never above the frame's length, or `none` while the call has not
returned. -/
def txSend (frame : List Byte) (s : State) : Option Nat × State :=
  match s.link.nextTx with
  | (.pending, l) => (none, s.setLink l)
  | (.sent k, l) =>
    (some (min k frame.length),
      s.setLink { l with log := l.log ++ [.txSend s.block.ep frame (min k frame.length)] })

/-- What an RxRecv gives the ENGINE: bytes, TIMEOUT, or nothing yet. -/
inductive RxResult where
  | pending
  | timeout
  | ok (bytes : List Byte)
  deriving DecidableEq, Repr

/-- The LINK's next draw for an RxRecv, and the LINK with that draw used; a free answer where none is listed (assumption 4). -/
def Link.nextRx (l : Link) : RxDraw × Link :=
  match l.rxDraws with
  | d :: ds => (d, { l with rxDraws := ds })
  | [] => (.answer (Config.freeRx l.freeCount), { l with freeCount := l.freeCount + 1 })

/-- The end of `RxRecv(n)` with an answer: OK with the first `n` bytes of the stream, unread bytes first (rules R43 and R47), or
TIMEOUT with `j < n` bytes lost. -/
def rxAnswer (n : Nat) (a : RxAnswer) (s : State) : RxResult × State :=
  let stream := s.unread ++ a.arrived
  if a.inTime = true ∧ n ≤ stream.length then
    (.ok (stream.take n),
      s.setLink { s.link with
        unread := s.unreadSet (stream.drop n)
        log := s.link.log ++ [.rxOk s.block.ep (stream.take n)] })
  else
    (.timeout,
      s.setLink { s.link with
        unread := s.unreadSet (stream.drop (min a.lost (n - 1)))
        log := s.link.log ++ [.rxTimeout s.block.ep n (stream.take (min a.lost (n - 1)))] })

/-- `RxRecv(n)` (rule R43). -/
def rxRecv (n : Nat) (s : State) : RxResult × State :=
  match s.link.nextRx with
  | (.pending, l) => (.pending, s.setLink l)
  | (.answer a, l) => rxAnswer n a (s.setLink l)

/-- `LINK_RETAINS_UNREAD` = false: unread bytes "are discarded before the next operation's first RxRecv" (rule R47). DESIGN CHOICE
(assumption 18): where a BIND to another endpoint came in between, the bytes of the endpoint now bound are discarded and the old
endpoint's are not touched; they are discarded before its own next first RxRecv, so that no receive ever returns them. -/
def settleUnread (s : State) : State :=
  if s.params.linkRetainsUnread then s else s.setLink { s.link with unread := s.unreadSet [] }

/-! ## Sequencing an operation -/

/-- Where a part of an operation leaves the ENGINE: it waits for the LINK in a receive or send, the operation has ended with
`finish`, or the part returned a value and the operation goes on (rules R12 and R13). -/
inductive Flow (α : Type) where
  | wait (s : State)
  | ended (s : State)
  | go (a : α) (s : State)

/-- The next part runs only after the one before it returned (rule R13). -/
def Flow.andThen {α β : Type} (f : Flow α) (k : α → State → Flow β) : Flow β :=
  match f with
  | .wait s => .wait s
  | .ended s => .ended s
  | .go a s => k a s

/-- The state a part leaves. -/
def Flow.state {α : Type} : Flow α → State
  | .wait s => s
  | .ended s => s
  | .go _ s => s

end Sys2Proof.Machine
end

