-- ==== Sys2Proof/Machine/AckValidator.lean ====
section
/-!
DEFINITION. The acknowledgement validator: READ_SIMPLE_ACK and READ_COMPLEX_ACK (42_ack_validator.md).
-/
namespace Sys2Proof.Machine

open Sys2Proof

/-- The classification of the two bytes of a simple ack (rules R94 and R95). -/
def classifySimple (bs : List Byte) : AckOutcome :=
  if bs = [ackPos, ackPos] then .positive
  else if bs = [ackNeg, ackNeg] then .negative
  else .error

/-- READ_SIMPLE_ACK() (rule R94). -/
def readSimpleAck (s : State) : Flow AckOutcome :=
  match rxRecv 2 (settleUnread (s.setPhase .rxHdr)) with
  | (.pending, t) => .wait t
  | (.timeout, t) => .go .error t
  | (.ok bs, t) => .go (classifySimple bs) (t.storeRx 0 bs)

/-- The checks on the first two bytes of a complex ack, in the order of rule R97: the outcome they end the reader with, or `none`
where the second receive is made (rules R98 to R101). -/
def complexHeader (rxBufCap cap : Nat) (b0 b1 : Byte) : Option AckOutcome :=
  if b0 = ackNeg ∧ b1 = ackNeg then some .negative
  else if b0 ≠ cpxMark then some .error
  else if b1.toNat = 0 then some .error
  else if b1.toNat + 3 > rxBufCap then some .error
  else if b1.toNat - 1 > cap then some .error
  else none

/-- The declared length L, in RXBUF[1] since the first receive. -/
def State.declaredLength (s : State) : Nat :=
  match s.block.rxBuf.read 1 with
  | some l => l.toNat
  | none => 0

/-- READ_COMPLEX_ACK after its header checks: the second receive, the checksum, the output slots (rules R102 to R104). -/
def readComplexBody (s : State) : Flow AckOutcome :=
  match rxRecv (s.declaredLength + 1) (s.setPhase .rxBody) with
  | (.pending, t) => .wait t
  | (.timeout, t) => .go .error t
  | (.ok bs, t) =>
    let u := t.storeRx 2 bs
    let l := s.declaredLength
    if some (checksum (u.block.rxBuf.slice 0 (l + 2))) = u.block.rxBuf.read (l + 2) then
      .go .positive (u.setAck (u.block.rxBuf.read 1) (u.block.rxBuf.read 2) (u.block.rxBuf.slice 3 (l + 2)))
    else .go .badChecksum u

/-- READ_COMPLEX_ACK(cap) (rule R97). -/
def readComplexAck (cap : Nat) (s : State) : Flow AckOutcome :=
  match rxRecv 2 (settleUnread (s.setPhase .rxHdr)) with
  | (.pending, t) => .wait t
  | (.timeout, t) => .go .error t
  | (.ok bs, t) =>
    let u := t.storeRx 0 bs
    match bs with
    | [b0, b1] =>
      match complexHeader u.params.rxBufCap cap b0 b1 with
      | some a => .go a u
      | none => readComplexBody u
    | _ => .go .error u

end Sys2Proof.Machine
end

