-- ==== Sys2Proof/Machine/FrameEncoder.lean ====
section
/-!
DEFINITION. The command encoder: BUILD_FRAME, TRANSMIT and SEND_FRAME (41_frame_encoder.md).
-/
namespace Sys2Proof.Machine

open Sys2Proof

/-- What BUILD_FRAME returns (rule R85). -/
inductive BuildResult where
  | frameOk | badArgument
  deriving DecidableEq, Repr

/-- What TRANSMIT returns (rule R89). -/
inductive TxResult where
  | sent | short
  deriving DecidableEq, Repr

/-- The bytes of a command frame before its checksum: HDR, LEN = n + 1, OPCODE, PAYLOAD (30_encoding.md rules R57 and R63). -/
def frameBody (opc : Byte) (n : Nat) (pay : Option (List Byte)) : List Byte :=
  hdr :: BitVec.ofNat 8 (n + 1) :: opc :: payloadBytes n pay

/-- A command frame: the body, then CHK over all of it (30_encoding.md rules R57 and R59). -/
def frameBytes (opc : Byte) (n : Nat) (pay : Option (List Byte)) : List Byte :=
  frameBody opc n pay ++ [checksum (frameBody opc n pay)]

/-- BUILD_FRAME(opc, n, pay) (rules R85 to R88): the frame in TXBUF and its length in TXLEN, or BAD_ARGUMENT with nothing written. -/
def buildFrame (opc : Byte) (n : Nat) (pay : Option (List Byte)) (s : State) : BuildResult × State :=
  if pay = none ∧ 0 < n then (.badArgument, s)
  else if maxTxPayload < n then (.badArgument, s)
  else (.frameOk, s.setFrame (frameBytes opc n pay) (n + 4))

/-- `TXBUF[0 .. TXLEN)`, the frame to send (rule R89). -/
def State.txFrame (s : State) : List Byte := s.block.txBuf.slice 0 (s.block.txLen.getD 0)

/-- TRANSMIT() (rules R89 and R90): one TxSend of the frame, never retried. -/
def transmit (s : State) : Flow TxResult :=
  let t := s.setPhase .tx
  match txSend t.txFrame t with
  | (none, t) => .wait t
  | (some k, t) => if k < t.block.txLen.getD 0 then .go .short t else .go .sent t

/-- The second half of SEND_FRAME: TRANSMIT, with a short send ending the command in TX_INCOMPLETE (rule R91). -/
def sendBuilt (s : State) : Flow Unit :=
  (transmit s).andThen fun r t =>
    match r with
    | .short => .ended (finish .txIncomplete t)
    | .sent => .go () t

/-- SEND_FRAME(opc, n, pay) (rule R91). -/
def sendFrame (opc : Byte) (n : Nat) (pay : Option (List Byte)) (s : State) : Flow Unit :=
  match buildFrame opc n pay (s.setPhase .build) with
  | (.badArgument, t) => .ended (finish .badArgument t)
  | (.frameOk, t) => sendBuilt t

end Sys2Proof.Machine
end

