-- ==== Sys2Proof/Machine/Commands.lean ====
section
/-!
DEFINITION. The seven sensor commands and the classify function they share (43_commands.md). A command runs in one step up to
the point where the LINK has not answered yet; from there the ENGINE goes on by PHASE (20_memory.md rule R51: the link calls are
the only suspension points).
-/
namespace Sys2Proof.Machine

open Sys2Proof

/-- The status of an ack outcome of either shape, the source's table (rule R112). For a complex ack, Positive stands for OK only
after the expectation check (rule R115). -/
def ackStatus : AckOutcome → Status
  | .positive => .ok
  | .negative => .negativeAck
  | .error => .badResponse
  | .badChecksum => .badChecksum

/-- The end of RUN_SIMPLE: the ack outcome decides the status (rule R113). -/
def simpleCheck (a : AckOutcome) (s : State) : Flow Unit := .ended (finish (ackStatus a) (s.setPhase .check))

/-- RUN_SIMPLE(opc, n, pay) from a PHASE on (rule R113). A simple command is never in RX_BODY or CHECK between steps. -/
def runSimple (opc : Byte) (n : Nat) (pay : Option (List Byte)) (p : Phase) (s : State) : Flow Unit :=
  match p with
  | .build => (sendFrame opc n pay s).andThen fun _ t => (readSimpleAck t).andThen simpleCheck
  | .tx => (sendBuilt s).andThen fun _ t => (readSimpleAck t).andThen simpleCheck
  | .rxHdr => (readSimpleAck s).andThen simpleCheck
  | .idle => .wait s
  | .rxBody => .wait s
  | .check => .wait s

/-- The end of RUN_COMPLEX: the outcome's status, or the payload after the expectation check (rules R114 and R115). -/
def complexCheck (opc : Byte) (expLen : Nat) (a : AckOutcome) (s : State) : Flow (List Byte) :=
  let t := s.setPhase .check
  match a with
  | .negative => .ended (finish .negativeAck t)
  | .badChecksum => .ended (finish .badChecksum t)
  | .error => .ended (finish .badResponse t)
  | .positive =>
    match t.block.ackP with
    | some p => if t.block.ackOp = some opc ∧ p.length = expLen then .go p t else .ended (finish .badResponse t)
    | none => .ended (finish .badResponse t)

/-- RUN_COMPLEX(opc, cap, expLen) from a PHASE on (rule R114). -/
def runComplex (opc : Byte) (cap expLen : Nat) (p : Phase) (s : State) : Flow (List Byte) :=
  match p with
  | .build =>
    (sendFrame opc 0 none s).andThen fun _ t => (readComplexAck cap t).andThen (complexCheck opc expLen)
  | .tx => (sendBuilt s).andThen fun _ t => (readComplexAck cap t).andThen (complexCheck opc expLen)
  | .rxHdr => (readComplexAck cap s).andThen (complexCheck opc expLen)
  | .rxBody => (readComplexBody s).andThen (complexCheck opc expLen)
  | .idle => .wait s
  | .check => .wait s

/-- The results of READ_RESULTS from its payload, then `finish(OK)` (rule R118). The payload has 4 bytes by rule R115. -/
def deliverResults (p : List Byte) (s : State) : Flow Unit :=
  match p with
  | [f1, f0, c1, c0] => .ended (finish .ok (s.setResults (be16 f1 f0) (be16 c1 c0)))
  | _ => .ended (finish .badResponse s)

/-- The result of READ_COEFF from its payload, then `finish(OK)` (rule R120). The payload has 1 byte by rule R115. -/
def deliverCoeff (p : List Byte) (s : State) : Flow Unit :=
  match p with
  | [v] => .ended (finish .ok (s.setCoeff v))
  | _ => .ended (finish .badResponse s)

/-! ## The bodies, from a PHASE on -/

/-- START_MEAS (rule R116). -/
def startMeasFrom (p : Phase) (s : State) : State := (runSimple 0x01 0 none p s).state

/-- STOP_MEAS (rule R117). -/
def stopMeasFrom (p : Phase) (s : State) : State := (runSimple 0x02 0 none p s).state

/-- READ_RESULTS (rule R118). -/
def readResultsFrom (p : Phase) (s : State) : State :=
  ((runComplex 0x04 capResults 4 p s).andThen deliverResults).state

/-- SET_COEFF: the payload is the single byte CUR_ARG (rule R119). -/
def setCoeffFrom (p : Phase) (s : State) : State := (runSimple 0x08 1 (some s.block.curArg.toList) p s).state

/-- READ_COEFF (rule R120). -/
def readCoeffFrom (p : Phase) (s : State) : State :=
  ((runComplex 0x10 capCoeff 1 p s).andThen deliverCoeff).state

/-- STOP_AUTO_SEND (rule R121). -/
def stopAutoSendFrom (p : Phase) (s : State) : State := (runSimple 0x20 0 none p s).state

/-- ENABLE_AUTO_SEND (rule R122). -/
def enableAutoSendFrom (p : Phase) (s : State) : State := (runSimple 0x40 0 none p s).state

/-! ## The command request -/

/-- A CMD write whose OPC is one of the seven (rules R111 and R135): BUSY_ACCESS, then UNBOUND, else the command starts and its
body runs. -/
def startCommand (opc arg : Byte) (body : Phase → State → State) (s : State) : Host.Outcome State Fault Refusal :=
  unlessFaulted s <|
    if s.block.busy then takeFault .busyAccess s
    else if s.block.bound then .next (body .build (s.latch opc arg))
    else takeFault .unbound s

/-- START_MEAS (rule R116). -/
def execStartMeas (arg : Byte) (s : State) : Host.Outcome State Fault Refusal := startCommand 0x01 arg startMeasFrom s

/-- STOP_MEAS (rule R117). -/
def execStopMeas (arg : Byte) (s : State) : Host.Outcome State Fault Refusal := startCommand 0x02 arg stopMeasFrom s

/-- READ_RESULTS (rule R118). -/
def execReadResults (arg : Byte) (s : State) : Host.Outcome State Fault Refusal := startCommand 0x04 arg readResultsFrom s

/-- SET_COEFF c (rule R119). -/
def execSetCoeff (c : Byte) (s : State) : Host.Outcome State Fault Refusal := startCommand 0x08 c setCoeffFrom s

/-- READ_COEFF (rule R120). -/
def execReadCoeff (arg : Byte) (s : State) : Host.Outcome State Fault Refusal := startCommand 0x10 arg readCoeffFrom s

/-- STOP_AUTO_SEND (rule R121). -/
def execStopAutoSend (arg : Byte) (s : State) : Host.Outcome State Fault Refusal := startCommand 0x20 arg stopAutoSendFrom s

/-- ENABLE_AUTO_SEND (rule R122). -/
def execEnableAutoSend (arg : Byte) (s : State) : Host.Outcome State Fault Refusal :=
  startCommand 0x40 arg enableAutoSendFrom s

/-! ## The ENGINE going on -/

/-- The body that CUR_OP selects (rule R111). -/
def bodyOf (opc : Byte) (p : Phase) (s : State) : State :=
  if opc = 0x01 then startMeasFrom p s
  else if opc = 0x02 then stopMeasFrom p s
  else if opc = 0x04 then readResultsFrom p s
  else if opc = 0x08 then setCoeffFrom p s
  else if opc = 0x10 then readCoeffFrom p s
  else if opc = 0x20 then stopAutoSendFrom p s
  else if opc = 0x40 then enableAutoSendFrom p s
  else s

/-- The ENGINE goes on with the operation in progress, from the link call it waits in; an idle ENGINE does nothing. -/
def resume (s : State) : State :=
  if s.block.busy then
    match s.block.curOp with
    | some opc => bodyOf opc s.block.phase s
    | none => s
  else s

end Sys2Proof.Machine
end

