-- ==== Sys2Proof/Decode.lean ====
section
/-!
DEFINITION. Decoding a host access into an operation, total and rejecting by name, and the encoder written from the same rules
(10_state.md rules R17 and R19; 30_encoding.md rules R65, R67 and R71).
-/
namespace Sys2Proof

/-- Why a host access is no operation. -/
inductive DecodeError where
  /-- The register does not exist, or does not allow the access (rule R17): the block raises Fault(ILLEGAL_ACCESS). -/
  | illegalAccess
  /-- A CMD write whose OPC is none of the seven (rule R67): the block raises Fault(ILLEGAL_OPCODE). -/
  | illegalOpcode
  /-- A CMD write of a value that no 16-bit register can be written with: no such access exists (rule R19). -/
  | valueTooWide
  deriving DecidableEq, Repr

/-- CMD.OPC, bits 7:0 (rule R19). -/
def cmdOpc (w : Half) : Byte := w.extractLsb' 0 8

/-- CMD.ARG, bits 15:8 (rule R19). -/
def cmdArg (w : Half) : Byte := w.extractLsb' 8 8

/-- The CMD word `(ARG << 8) | OPC` (rule R71). -/
def cmdWord (arg opc : Byte) : Half := arg ++ opc

/-- The operation a CMD word requests (rules R65, R67 and R111). -/
def decodeCmd (w : Half) : Except DecodeError Instr :=
  if cmdOpc w = 0x01 then .ok (.startMeas (cmdArg w))
  else if cmdOpc w = 0x02 then .ok (.stopMeas (cmdArg w))
  else if cmdOpc w = 0x04 then .ok (.readResults (cmdArg w))
  else if cmdOpc w = 0x08 then .ok (.setCoeff (cmdArg w))
  else if cmdOpc w = 0x10 then .ok (.readCoeff (cmdArg w))
  else if cmdOpc w = 0x20 then .ok (.stopAutoSend (cmdArg w))
  else if cmdOpc w = 0x40 then .ok (.enableAutoSend (cmdArg w))
  else .error .illegalOpcode

/-- The number of a readable register (rule R17). -/
def regNumber : ReadReg → Nat
  | .stat => 1
  | .resFine => 2
  | .resCoarse => 3
  | .resCoeff => 4
  | .code => 6

/-- The readable register with a number, where there is one (rule R17). -/
def readRegOf (n : Nat) : Option ReadReg :=
  if n = 1 then some .stat
  else if n = 2 then some .resFine
  else if n = 3 then some .resCoarse
  else if n = 4 then some .resCoeff
  else if n = 6 then some .code
  else none

/-- The decoder: writes of CMD (register 0) and BIND (register 5) and reads of the five readable registers are operations,
every other access is refused by name (rules R17, R67 and R71). -/
def decode : HostAccess → Except DecodeError Instr
  | .write reg value =>
    if reg = 0 then
      if value < 2 ^ 16 then decodeCmd (BitVec.ofNat 16 value) else .error .valueTooWide
    else if reg = 5 then .ok (.bind value)
    else .error .illegalAccess
  | .read reg =>
    match readRegOf reg with
    | some r => .ok (.rd r)
    | none => .error .illegalAccess

/-- The encoder: the host access that requests an operation (rules R65 and R71). -/
def encode : Instr → HostAccess
  | .startMeas arg => .write 0 (cmdWord arg 0x01).toNat
  | .stopMeas arg => .write 0 (cmdWord arg 0x02).toNat
  | .readResults arg => .write 0 (cmdWord arg 0x04).toNat
  | .setCoeff c => .write 0 (cmdWord c 0x08).toNat
  | .readCoeff arg => .write 0 (cmdWord arg 0x10).toNat
  | .stopAutoSend arg => .write 0 (cmdWord arg 0x20).toNat
  | .enableAutoSend arg => .write 0 (cmdWord arg 0x40).toNat
  | .bind ep => .write 5 ep
  | .rd r => .read (regNumber r)

/-- The host access that a word of the opcode table stands for. The seven CMD rows have 16 bits, the width of CMD (rule R19): such
a word is written to register 0. BIND's row (match 0x0, mask 0x0) gives no 16-bit word, so a word of any other width is an endpoint
identifier, written to register 5 (rule R27). The row RD has no word (assumption 11). -/
def tableAccess (nbits w : Nat) : HostAccess := if nbits = 16 then .write 0 w else .write 5 w

/-- The operation the decoder reads from a word of spec/opcode_table.json, as the host asks for it. -/
def decodeTableWord (nbits w : Nat) : Option Instr :=
  match decode (tableAccess nbits w) with
  | .ok i => some i
  | .error _ => none

end Sys2Proof
end

