-- ==== Sys2Proof/Machine/HostRegs.lean ====
section
/-!
DEFINITION. The register accesses that are no command: BIND (43_commands.md rule R110), the register reads (10_state.md rules R17
to R27) and the accesses the decoder refuses (60_exceptions.md rule R133).
-/
namespace Sys2Proof.Machine

open Sys2Proof

/-- BIND ep (rule R110). -/
def execBind (ep : Nat) (s : State) : Host.Outcome State Fault Refusal :=
  unlessFaulted s <|
    if s.block.busy then takeFault .busyAccess s
    else .next (s.setBinding ep)

/-- The value a register other than STAT holds, zero-extended to 16 bits; `none` while it is unwritten (rules R20 to R26). -/
def heldValue (b : Block) : ReadReg → Option Half
  | .stat => some ((statWord b.busy b.bound).setWidth 16)
  | .resFine => b.resFine
  | .resCoarse => b.resCoarse
  | .resCoeff => b.resCoeff.map (·.setWidth 16)
  | .code => b.code.map (·.setWidth 16)

/-- RD reg (rules R17, R26 and R36): STAT reads at any time; the others fault while BUSY, then while unwritten (rule R135). The spec
gives a read of an unwritten register no value: it "raises Fault(UNWRITTEN_READ). A model must not give such a read the value zero"
(rule R26; 92_eei_decisions.md D12). -/
def execRd (r : ReadReg) (s : State) : Host.Outcome State Fault Refusal :=
  unlessFaulted s <|
    if s.block.busy ∧ r ≠ .stat then takeFault .busyAccess s
    else match heldValue s.block r with
      | some v => .next (s.setRdata r v)
      | none => takeFault .unwrittenRead s

/-- An access that is no operation (rules R17, R67 and R135): ILLEGAL_ACCESS before any other fault; for an illegal OPC,
BUSY_ACCESS first. -/
def refuseAccess (e : DecodeError) (s : State) : Host.Outcome State Fault Refusal :=
  match e with
  | .illegalAccess => unlessFaulted s (takeFault .illegalAccess s)
  | .illegalOpcode => unlessFaulted s (if s.block.busy then takeFault .busyAccess s else takeFault .illegalOpcode s)
  | .valueTooWide => unlessFaulted s (.refused .valueTooWide)

end Sys2Proof.Machine
end

