-- ==== Sys2Proof/Machine/Dispatch.lean ====
section
/-!
DEFINITION. One arm per operation of the opcode table.
-/
namespace Sys2Proof.Machine

open Sys2Proof

def exec (i : Instr) (s : State) : Host.Outcome State Fault Refusal :=
  match i with
  | .startMeas arg => Sys2Proof.Machine.execStartMeas arg s
  | .stopMeas arg => Sys2Proof.Machine.execStopMeas arg s
  | .readResults arg => Sys2Proof.Machine.execReadResults arg s
  | .setCoeff c => Sys2Proof.Machine.execSetCoeff c s
  | .readCoeff arg => Sys2Proof.Machine.execReadCoeff arg s
  | .stopAutoSend arg => Sys2Proof.Machine.execStopAutoSend arg s
  | .enableAutoSend arg => Sys2Proof.Machine.execEnableAutoSend arg s
  | .bind ep => Sys2Proof.Machine.execBind ep s
  | .rd reg => Sys2Proof.Machine.execRd reg s

end Sys2Proof.Machine
end

