-- ==== Sys2Proof/WellFormed.lean ====
section
/-!
DEFINITION. The check an operation must pass that its type does not already make: an endpoint identifier has `EP_WIDTH` bits
(10_state.md rule R27). Opcode, argument and register number are right by construction.
-/
namespace Sys2Proof

/-- The operation's fields fit the block's parameters. -/
def Instr.wellFormed (p : Params) : Instr → Bool
  | .bind ep => decide (ep < 2 ^ p.epWidth)
  | .startMeas _ => true
  | .stopMeas _ => true
  | .readResults _ => true
  | .setCoeff _ => true
  | .readCoeff _ => true
  | .stopAutoSend _ => true
  | .enableAutoSend _ => true
  | .rd _ => true

end Sys2Proof
end

