-- ==== Sys2Proof/Machine/Step.lean ====
section
/-!
DEFINITION. One step of the machine: the next event at the block's boundary, or, where there is none, the ENGINE's next move.
-/
namespace Sys2Proof.Machine

open Sys2Proof

/-- A register access by the host: the operation it decodes to, or its refusal. A BIND value of more than `EP_WIDTH` bits is no
access a host can make (assumption 6). -/
def hostAccess (a : HostAccess) (s : State) : Host.Outcome State Fault Refusal :=
  match decode a with
  | .ok i => if i.wellFormed s.params then exec i s else refuseAccess .valueTooWide s
  | .error e => refuseAccess e s

/-- One step. -/
def step (s : State) : Host.Outcome State Fault Refusal :=
  match s.port.inbox with
  | .access a :: es => hostAccess a (s.setInbox es)
  | .reset left :: es => .next (takeReset left (s.setInbox es))
  | .wait :: es => unlessFaulted s (.next (resume (s.setInbox es)))
  | [] => unlessFaulted s (.next (resume s))

/-- `s` with the host access that a word of the opcode table stands for as the next event. -/
def State.withFetchWord (s : State) (nbits w : Nat) : State :=
  s.setInbox (.access (tableAccess nbits w) :: s.port.inbox)

end Sys2Proof.Machine
end

