-- ==== Sys2Proof/Safety.lean ====
section
/-!
DEFINITION. What counts as a safe run, and the invariant of the machine, in the terms the statements use.
-/
namespace Sys2Proof

open Sys2Proof.Machine

/-- The seven command opcodes (30_encoding.md rule R65). -/
def commandOpcodes : List Byte := [0x01, 0x02, 0x04, 0x08, 0x10, 0x20, 0x40]

/-- The two commands with a data reply, and the payload capacity each passes to the complex reader (rules R7 and R65). -/
def dataCapacity (opc : Byte) : Option Nat :=
  if opc = 0x04 then some capResults else if opc = 0x10 then some capCoeff else none

/-- The bytes of a command's frame (rules R57 and R65). -/
def commandFrame (opc arg : Byte) : List Byte :=
  if opc = 0x08 then frameBytes opc 1 (some [arg]) else frameBytes opc 0 none

/-- The conditions under which a CMD write starts its command (rule R111): bound, not busy, no fault recorded. -/
abbrev Ready (s : State) : Prop := s.block.fault = none ∧ s.block.busy = false ∧ s.block.bound = true

/-- A draw listed for the next TxSend, or for the one in progress, says that it returns. -/
abbrev SendListed (s : State) : Prop := ∃ k, TxDraw.sent k ∈ s.link.txDraws

/-- The LINK after `n` more draws for a TxSend. -/
def useTx : Nat → Link → Link
  | 0, l => l
  | n + 1, l => useTx n l.nextTx.2

/-- A TxSend that draws from this LINK eventually returns: after some number of draws the next is a count. -/
def TxReturns (l : Link) : Prop := ∃ n k, (useTx n l).nextTx.1 = .sent k

/-- The LINK as it may stand when a later TxSend draws from it: listed draws have been used up from the front, and free draws made. -/
structure LaterLink (l m : Link) : Prop where
  txLive : m.txLive = l.txLive
  txDraws : m.txDraws <:+ l.txDraws
  freeCount : l.freeCount ≤ m.freeCount

/-- `LINK_TX_LIVE` (rule R156, decision D27): "every TxSend eventually returns", the one in progress and every later one, on
listed draws and on free ones. -/
def LinkTxLive (s : State) : Prop := ∀ m, LaterLink s.link m → TxReturns m

/-- A run is safe where it records no fault and stops at none: every state it reaches has a clear fault mark (rule R133: "A state
with a fault recorded is never a successful end of a run"). -/
def SafeRun : Nat → State → Prop
  | 0, s => s.block.fault = none
  | k + 1, s => s.block.fault = none ∧ ∃ t, step s = .next t ∧ SafeRun k t

/-- The part of the invariant about the register interface: PHASE and STAT.BUSY agree (rule R18), an operation never rests in BUILD
or CHECK (rule R51), the binding has an endpoint that fits `EP_WIDTH` (rule R27), CODE holds 0 to 5 (rule R20), and the two
concentrations are written together (rule R151). -/
structure RegInv (s : State) : Prop where
  busy_iff : s.block.busy = true ↔ s.block.phase ≠ .idle
  no_build : s.block.phase ≠ .build
  no_check : s.block.phase ≠ .check
  bound_iff : s.block.bound = true ↔ s.block.ep ≠ none
  ep_fits : ∀ ep, s.block.ep = some ep → ep < 2 ^ s.params.epWidth
  code_legal : ∀ c, s.block.code = some c → c.toNat ≤ 5
  pair : s.block.resFine = none ↔ s.block.resCoarse = none

/-- The part of the invariant about an operation in progress: what CUR_OP, CUR_ARG, TXBUF and RXBUF hold in each PHASE (rules R28
to R31, R92 and R101). -/
structure OpInv (s : State) : Prop where
  current : s.block.busy = true →
    s.block.bound = true ∧ ∃ opc arg, s.block.curOp = some opc ∧ s.block.curArg = some arg ∧ opc ∈ commandOpcodes
  sending : s.block.phase = .tx → ∀ opc arg, s.block.curOp = some opc → s.block.curArg = some arg →
    s.block.txLen = some (commandFrame opc arg).length ∧ s.txFrame = commandFrame opc arg
  body : s.block.phase = .rxBody → ∃ opc cap l, s.block.curOp = some opc ∧ dataCapacity opc = some cap ∧
    s.block.rxBuf.read 0 = some cpxMark ∧ s.block.rxBuf.read 1 = some l ∧
    complexHeader s.params.rxBufCap cap cpxMark l = none
  slots : ∀ p, s.block.ackP = some p → p.length ≤ 4 ∧ ∃ l, s.block.ackL = some l ∧ l.toNat = p.length + 1

/-- The part of the invariant about storage: TXBUF and RXBUF are in canonical form and inside their sizes (rules R29, R30 and
R106), the receive streams are in canonical form, and `RX_BUF_CAP` is legal (rule R7). -/
structure StoreInv (s : State) : Prop where
  tx_wf : s.block.txBuf.wf
  tx_within : ∀ c ∈ s.block.txBuf, c.1 < txBufSize
  rx_wf : s.block.rxBuf.wf
  rx_within : ∀ c ∈ s.block.rxBuf, c.1 < s.params.rxBufCap
  streams : s.link.unread.wf
  params : s.params.wf

/-- The invariant of the machine. -/
structure Inv (s : State) : Prop where
  reg : RegInv s
  op : OpInv s
  store : StoreInv s

end Sys2Proof
end

