-- ==== Sys2Proof/Certificates/Slice0/Obligations.lean ====
section
/-!
DEFINITION. The statements for the provers, each made from the numbered rules of the spec its docstring names.
-/
namespace Sys2Proof

open Sys2Proof.Machine

/-! ## Words the statements share -/

/-- The opcode and the ARG byte of a command (30_encoding.md rule R65). -/
def commandOf : Instr → Option (Byte × Byte)
  | .startMeas arg => some (0x01, arg)
  | .stopMeas arg => some (0x02, arg)
  | .readResults arg => some (0x04, arg)
  | .setCoeff c => some (0x08, c)
  | .readCoeff arg => some (0x10, arg)
  | .stopAutoSend arg => some (0x20, arg)
  | .enableAutoSend arg => some (0x40, arg)
  | .bind _ => none
  | .rd _ => none

/-- The opcode and the ARG byte of a command with no data reply (rule R65). -/
def simpleOf : Instr → Option (Byte × Byte)
  | .startMeas arg => some (0x01, arg)
  | .stopMeas arg => some (0x02, arg)
  | .setCoeff c => some (0x08, c)
  | .stopAutoSend arg => some (0x20, arg)
  | .enableAutoSend arg => some (0x40, arg)
  | .readResults _ => none
  | .readCoeff _ => none
  | .bind _ => none
  | .rd _ => none

/-- The opcode, the ARG byte and the payload length (which is also the capacity) of a command with a data reply (rules R65, R115). -/
def dataOf : Instr → Option (Byte × Byte × Nat)
  | .readResults arg => some (0x04, arg, 4)
  | .readCoeff arg => some (0x10, arg, 1)
  | .startMeas _ => none
  | .stopMeas _ => none
  | .setCoeff _ => none
  | .stopAutoSend _ => none
  | .enableAutoSend _ => none
  | .bind _ => none
  | .rd _ => none

/-- The frames of rule R66, byte by byte; for SET_COEFF c, `k = (0x8E - c) mod 256`. -/
def frameOf (opc arg : Byte) : List Byte :=
  if opc = 0x01 then [0x68, 0x01, 0x01, 0x96]
  else if opc = 0x02 then [0x68, 0x01, 0x02, 0x95]
  else if opc = 0x04 then [0x68, 0x01, 0x04, 0x93]
  else if opc = 0x08 then [0x68, 0x02, 0x08, arg, 0x8E - arg]
  else if opc = 0x10 then [0x68, 0x01, 0x10, 0x87]
  else if opc = 0x20 then [0x68, 0x01, 0x20, 0x77]
  else [0x68, 0x01, 0x40, 0x57]

/-- The receive stream that the first receive of an operation draws from: the unread bytes the link retains, then what arrives
(20_memory.md rule R47). -/
def firstStream (s : State) (a : RxAnswer) : List Byte :=
  (if s.params.linkRetainsUnread = true then s.unread else []) ++ a.arrived

/-- The number of a reply's status where a simple ack is read (rules R94, R112 and R126): OK 0 on `A5 A5`, NEGATIVE_ACK 2 on
`96 96`, BAD_RESPONSE 3 on any other pair and on a timeout. -/
def simpleReplyCode (s : State) (a : RxAnswer) : BitVec 3 :=
  if a.inTime = true ∧ 2 ≤ (firstStream s a).length then
    if (firstStream s a).take 2 = [0xA5, 0xA5] then 0
    else if (firstStream s a).take 2 = [0x96, 0x96] then 2
    else 3
  else 3

/-- The link call that a receive of two bytes with an answer is: the bytes, or a timeout and the bytes it loses (rule R43). -/
def firstCall (s : State) (a : RxAnswer) : LinkCall :=
  if a.inTime = true ∧ 2 ≤ (firstStream s a).length then .rxOk s.block.ep ((firstStream s a).take 2)
  else .rxTimeout s.block.ep 2 ((firstStream s a).take (min a.lost 1))

/-- What a command leaves unchanged whatever its status: the binding, the fault mark, the host's side and the parameters. -/
def SameAround (s t : State) : Prop :=
  t.block.bound = s.block.bound ∧ t.block.ep = s.block.ep ∧ t.block.fault = s.block.fault ∧ t.port = s.port ∧ t.params = s.params

/-- The three result registers are unchanged. -/
def SameResults (s t : State) : Prop :=
  t.block.resFine = s.block.resFine ∧ t.block.resCoarse = s.block.resCoarse ∧ t.block.resCoeff = s.block.resCoeff

/-- A command has ended with the status of this number (rule R129): CODE holds it, STAT.BUSY = 0, PHASE = IDLE. -/
def EndedWith (c : BitVec 3) (t : State) : Prop :=
  t.block.code = some c ∧ t.block.busy = false ∧ t.block.phase = .idle

/-- The block can start the command whose frame has opcode `opc` and argument `arg`, and the LINK accepts the whole frame: bound,
idle, no fault, and a listed count of at least the frame's length (rules R42 and R111). -/
def SendsWhole (s : State) (opc arg : Byte) (ts : List TxDraw) : Prop :=
  Inv s ∧ Ready s ∧ ∃ k, (frameOf opc arg).length ≤ k ∧ s.link.txDraws = .sent k :: ts

/-- The ENGINE's own move: a step with no host access and no reset, in which an operation in progress goes on. When such moves happen
is the model's reading (assumption 5). -/
def EngineMove (s t : State) : Prop := (s.port.inbox = [] ∨ ∃ es, s.port.inbox = .wait :: es) ∧ step s = .next t

/-- `s` with another `RX_BUF_CAP` (rule R7). -/
def withRxBufCap (r : Nat) (s : State) : State := { s with params := { s.params with rxBufCap := r } }

/-- Every call of the list is a receive on this endpoint. -/
def Receives (ep : Option Nat) (l : List LinkCall) : Prop :=
  ∀ c ∈ l, (∃ bs, c = .rxOk ep bs) ∨ ∃ n bs, c = .rxTimeout ep n bs

/-- How many receives the command with this opcode may still make from a PHASE on: one for a simple ack, two for a complex ack. -/
def receivesLeft (opc : Byte) : Phase → Nat
  | .tx => if dataCapacity opc = none then 1 else 2
  | .rxHdr => if dataCapacity opc = none then 1 else 2
  | .rxBody => 1
  | .idle => 0
  | .build => 0
  | .check => 0

/-- From `s` to `t` the command made no link call and waits in TX, or it made one TxSend of its frame and then receives only, no more
than leave it, with those it may still make from the PHASE it is in, its one or two. -/
def OneSend (opc arg : Byte) (s t : State) : Prop :=
  ∃ l, t.link.log = s.link.log ++ l ∧
    (l = [] ∧ t.block.phase = .tx ∨
      ∃ k rest, l = .txSend s.block.ep (frameOf opc arg) k :: rest ∧ Receives s.block.ep rest ∧ t.block.phase ≠ .tx ∧
        rest.length + receivesLeft opc t.block.phase ≤ receivesLeft opc .tx)

/-- From `s` to `t` the command made no TxSend, and receives only, no more than leave it, with those it may still make, as many as it
could make from the PHASE it was in. -/
def NoSend (opc : Byte) (s t : State) : Prop :=
  ∃ l, t.link.log = s.link.log ++ l ∧ Receives s.block.ep l ∧ t.block.phase ≠ .tx ∧
    l.length + receivesLeft opc t.block.phase ≤ receivesLeft opc s.block.phase

/-- The elements that survive from one operation to the next (rule R34), with what stands around the block and where the ENGINE is. -/
def SameSurvivors (s t : State) : Prop :=
  t.block.bound = s.block.bound ∧ t.block.ep = s.block.ep ∧ t.block.code = s.block.code ∧ SameResults s t ∧
    t.block.fault = s.block.fault ∧ t.block.busy = s.block.busy ∧ t.block.phase = s.block.phase ∧
    t.link = s.link ∧ t.port = s.port ∧ t.params = s.params

end Sys2Proof

open Sys2Proof Sys2Proof.Machine

/-! ## Decoding and encoding -/

/-- Rules R19, R67, R71 and R17 on words written out from the encoding table (95_test_vectors.md L2.5, L2.6). -/
def Obligations.TableWordsDecodeAsTheSpecSays : Prop :=
  decode (.write 0 0xFF01) = .ok (.startMeas 0xFF) ∧ decode (.write 0 0x0002) = .ok (.stopMeas 0) ∧
  decode (.write 0 0x0004) = .ok (.readResults 0) ∧ decode (.write 0 0x6408) = .ok (.setCoeff 100) ∧
  decode (.write 0 0x0010) = .ok (.readCoeff 0) ∧ decode (.write 0 0x0020) = .ok (.stopAutoSend 0) ∧
  decode (.write 0 0x0040) = .ok (.enableAutoSend 0) ∧ decode (.write 5 3) = .ok (.bind 3) ∧
  decode (.read 1) = .ok (.rd .stat) ∧ decode (.read 6) = .ok (.rd .code) ∧
  decode (.write 0 0x0800) = .error .illegalOpcode ∧ decode (.read 5) = .error .illegalAccess

/-- Rule R71: an operation's host access decodes to the operation, with every operand at every value. -/
def Obligations.DecodeOfEncodeIsTheOperation : Prop := ∀ i : Instr, decode (encode i) = .ok i

/-- Rule R68: "There are ... no alternative encodings of a command". Every access that decodes is the encoding of what it decodes to. -/
def Obligations.EncodeOfDecodeIsTheAccess : Prop := ∀ (a : HostAccess) (i : Instr), decode a = .ok i → encode i = a

/-- Rule R67: at the host interface CMD.OPC takes only the seven values; a CMD word with any other is refused as ILLEGAL_OPCODE. -/
def Obligations.OnlyTheSevenOpcodesDecode : Prop :=
  ∀ w : Half, (cmdOpc w ∈ commandOpcodes ↔ ∃ i, decode (.write 0 w.toNat) = .ok i) ∧
    (cmdOpc w ∉ commandOpcodes → decode (.write 0 w.toNat) = .error .illegalOpcode)

/-! ## The checksum -/

/-- Rules R76 and R77: `(65536 - Σ s) mod 256` is the two's-complement negation of the 8-bit wrapping sum, and is never the one's
complement. -/
def Obligations.ChecksumIsTheNegatedSum : Prop :=
  ∀ s : List Byte, ((checksum s).toNat : Int) = (65536 - (byteSum s : Int)) % 256 ∧
    checksum s = - s.foldr (· + ·) 0 ∧ checksum s ≠ 0xFF - s.foldr (· + ·) 0

/-- Rule R80: the sum with the checksum is 0 mod 256, and a received checksum byte matches exactly when the whole sums to 0. -/
def Obligations.ChecksumZeroSum : Prop :=
  ∀ (s : List Byte) (c : Byte), (byteSum s + (checksum s).toNat) % 256 = 0 ∧
    (checksum s = c ↔ byteSum (s ++ [c]) % 256 = 0)

/-- Rule R81: changing exactly one covered byte changes the checksum; a reordering of the covered bytes does not. -/
def Obligations.ChecksumDetectsOneChangedByte : Prop :=
  (∀ (l r : List Byte) (b b' : Byte), b ≠ b' → checksum (l ++ b :: r) ≠ checksum (l ++ b' :: r)) ∧
  (∀ s t : List Byte, s.Perm t → checksum s = checksum t)

/-! ## The command encoder -/

/-- Rules R85, R88 and R92: for every opcode and every accepted `(n, pay)`, BUILD_FRAME leaves header, length byte, opcode, payload
and checksum in TXBUF, TXLEN = n + 4, the frame sums to 0 mod 256, and nothing but TXBUF and TXLEN is written. -/
def Obligations.BuildFrameBuildsTheFrame : Prop :=
  ∀ (opc : Byte) (p : List Byte) (pay : Option (List Byte)) (s : State), s.block.txBuf.wf → p.length ≤ 254 →
    (pay = some p ∨ pay = none ∧ p = []) →
    ∃ t k, buildFrame opc p.length pay s = (.frameOk, t) ∧
      t.block.txLen = some (p.length + 4) ∧
      t.txFrame = [0x68, BitVec.ofNat 8 (p.length + 1), opc] ++ p ++ [k] ∧
      k = checksum ([0x68, BitVec.ofNat 8 (p.length + 1), opc] ++ p) ∧
      (BitVec.ofNat 8 (p.length + 1)).toNat = p.length + 1 ∧
      byteSum t.txFrame % 256 = 0 ∧
      t = { s with block := { s.block with txBuf := t.block.txBuf, txLen := t.block.txLen } } ∧
      ∀ i, p.length + 4 ≤ i → t.block.txBuf.read i = s.block.txBuf.read i

/-- Rules R86 and R87: an ABSENT payload with n > 0, and a payload of 255 bytes or more, give BAD_ARGUMENT with nothing written. -/
def Obligations.BuildFrameRefusesBadArguments : Prop :=
  ∀ (opc : Byte) (n : Nat) (s : State),
    (0 < n → buildFrame opc n none s = (.badArgument, s)) ∧
    (∀ pay, 254 < n → buildFrame opc n pay s = (.badArgument, s))

/-- Rule R91: a BAD_ARGUMENT ends the command before anything is sent, with CODE = 1. -/
def Obligations.SendFrameBadArgumentSendsNothing : Prop :=
  ∀ (opc : Byte) (n : Nat) (pay : Option (List Byte)) (s : State), (pay = none ∧ 0 < n ∨ 254 < n) →
    ∃ t, sendFrame opc n pay s = .ended t ∧ EndedWith 1 t ∧ t.link = s.link ∧ SameAround s t ∧ SameResults s t ∧
      t.block.txBuf = s.block.txBuf ∧ t.block.txLen = s.block.txLen

/-! ## The link -/

/-- Rule R42: TxSend hands the whole frame over in one call and reports a count of at most its length; it is the only link call
logged, and nothing of the block changes. -/
def Obligations.TxSendReportsACount : Prop :=
  ∀ (f : List Byte) (k : Nat) (ds : List TxDraw) (s : State), s.link.txDraws = .sent k :: ds →
    ∃ t j, txSend f s = (some j, t) ∧ j ≤ f.length ∧ (k ≤ f.length → j = k) ∧
      t.link.log = s.link.log ++ [.txSend s.block.ep f j] ∧ t.link.txDraws = ds ∧ t.link.unread = s.link.unread ∧
      t.link.rxDraws = s.link.rxDraws ∧ t.block = s.block

/-- Rules R43 and R47: a receive of n bytes that completes returns exactly n bytes, the bytes left unread first, and consumes them;
one that times out returns none and loses fewer than n. -/
def Obligations.RxRecvIsAllOrNothing : Prop :=
  ∀ (n : Nat) (a : RxAnswer) (ds : List RxDraw) (s : State), StoreInv s → s.block.ep ≠ none → 0 < n →
    s.link.rxDraws = .answer a :: ds →
    (a.inTime = true ∧ n ≤ (s.unread ++ a.arrived).length →
      ∃ t, rxRecv n s = (.ok ((s.unread ++ a.arrived).take n), t) ∧ t.unread = (s.unread ++ a.arrived).drop n ∧
        t.block = s.block ∧ t.link.rxDraws = ds) ∧
    (¬ (a.inTime = true ∧ n ≤ (s.unread ++ a.arrived).length) →
      ∃ t j, rxRecv n s = (.timeout, t) ∧ j < n ∧ (a.lost < n → j = a.lost) ∧
        t.unread = (s.unread ++ a.arrived).drop j ∧ t.block = s.block ∧ t.link.rxDraws = ds)

/-- Rule R47 with `LINK_RETAINS_UNREAD` = false: what was unread before the operation is not seen by its first receive. -/
def Obligations.DiscardedBytesAreNotSeen : Prop :=
  ∀ (s : State) (e : Nat) (old : List Byte), StoreInv s → s.block.ep = some e → s.params.linkRetainsUnread = false →
    readSimpleAck (s.setLink { s.link with unread := s.link.unread.set e old }) = readSimpleAck s ∧
    ∀ cap, readComplexAck cap (s.setLink { s.link with unread := s.link.unread.set e old }) = readComplexAck cap s

/-! ## The acknowledgement readers -/

/-- Rule R95: each byte pair maps to exactly one of Positive, Negative, Error; only `A5 A5` and `96 96` are not Error. -/
def Obligations.SimpleClassificationIsExhaustive : Prop :=
  ∀ b0 b1 : Byte,
    (classifySimple [b0, b1] = .positive ↔ b0 = 0xA5 ∧ b1 = 0xA5) ∧
    (classifySimple [b0, b1] = .negative ↔ b0 = 0x96 ∧ b1 = 0x96) ∧
    (classifySimple [b0, b1] = .error ↔ ¬ (b0 = 0xA5 ∧ b1 = 0xA5) ∧ ¬ (b0 = 0x96 ∧ b1 = 0x96))

/-- Rules R98 to R101 in the order of rule R105: what the first two bytes of a complex ack decide. -/
def Obligations.ComplexHeaderDecides : Prop :=
  ∀ (r cap : Nat) (b0 b1 : Byte),
    (complexHeader r cap b0 b1 = some .negative ↔ b0 = 0x96 ∧ b1 = 0x96) ∧
    (complexHeader r cap b0 b1 = some .error ↔
      ¬ (b0 = 0x96 ∧ b1 = 0x96) ∧ (b0 ≠ 0x40 ∨ b1 = 0 ∨ r < b1.toNat + 3 ∨ cap + 1 < b1.toNat)) ∧
    (complexHeader r cap b0 b1 = none ↔ b0 = 0x40 ∧ 1 ≤ b1.toNat ∧ b1.toNat + 3 ≤ r ∧ b1.toNat ≤ cap + 1)

/-- Rule R101, of the header check alone: with any two `RX_BUF_CAP >= cap + 4` it decides every pair of bytes alike. -/
def Obligations.HeaderCheckIgnoresLargeBuffers : Prop :=
  ∀ (r r' cap : Nat) (b0 b1 : Byte), cap + 4 ≤ r → cap + 4 ≤ r' → complexHeader r cap b0 b1 = complexHeader r' cap b0 b1

/-- Rules R102 to R104: a well-formed positive reply with a correct checksum yields Positive and round-trips the exact opcode and
payload bytes; with any other trailing byte it yields BadChecksum and the output slots are not written. -/
def Obligations.ComplexAckRoundTrips : Prop :=
  ∀ (cap : Nat) (op k : Byte) (p : List Byte) (s : State) (a1 a2 : RxAnswer) (rs : List RxDraw),
    StoreInv s → s.block.ep ≠ none → p.length ≤ cap → p.length ≤ 254 → p.length + 4 ≤ s.params.rxBufCap →
    s.link.rxDraws = .answer a1 :: .answer a2 :: rs → a1.inTime = true → a2.inTime = true →
    firstStream s a1 ++ a2.arrived = [0x40, BitVec.ofNat 8 (p.length + 1), op] ++ p ++ [k] → 2 ≤ (firstStream s a1).length →
    (k = checksum ([0x40, BitVec.ofNat 8 (p.length + 1), op] ++ p) →
      ∃ t, readComplexAck cap s = .go .positive t ∧ t.block.ackOp = some op ∧ t.block.ackP = some p ∧
        t.block.ackL = some (BitVec.ofNat 8 (p.length + 1)) ∧ t.unread = []) ∧
    (k ≠ checksum ([0x40, BitVec.ofNat 8 (p.length + 1), op] ++ p) →
      ∃ t, readComplexAck cap s = .go .badChecksum t ∧ t.block.ackOp = s.block.ackOp ∧ t.block.ackP = s.block.ackP ∧
        t.block.ackL = s.block.ackL ∧ t.unread = [])

/-- Rule R106, the critical safety property: whatever is received, READ_COMPLEX_ACK writes RXBUF only at indices below
`cap + 4` and below `RX_BUF_CAP`, and sets ACK_P only to a sequence of at most `cap` bytes. -/
def Obligations.ComplexAckNeverOverruns : Prop :=
  ∀ (cap : Nat) (s : State), StoreInv s →
    (∀ c ∈ (readComplexAck cap s).state.block.rxBuf, c.1 < s.params.rxBufCap) ∧
    (∀ i, cap + 4 ≤ i → (readComplexAck cap s).state.block.rxBuf.read i = s.block.rxBuf.read i) ∧
    (∀ p, (readComplexAck cap s).state.block.ackP = some p → s.block.ackP = some p ∨ p.length ≤ cap)

/-! ## The commands -/

/-- Rules R66 and R92: the frame the encoder builds for each command is the fixed frame of rule R66, for every argument. -/
def Obligations.CommandFramesAreTheTable : Prop :=
  ∀ opc ∈ commandOpcodes, ∀ arg : Byte, commandFrame opc arg = frameOf opc arg

/-- Rules R113, R116, R117, R119, R121 and R122: START_MEAS, STOP_MEAS, SET_COEFF, STOP_AUTO_SEND and ENABLE_AUTO_SEND, when the block
is ready and the LINK accepts the frame and answers the receive, send their frame, make one receive and end with the status of the
reply; no result register is written, and what the receive did not consume stays unread. -/
def Obligations.SimpleCommandsComplete : Prop :=
  ∀ (i : Instr) (opc arg : Byte) (s : State) (ts : List TxDraw) (a : RxAnswer) (rs : List RxDraw),
    simpleOf i = some (opc, arg) → SendsWhole s opc arg ts → s.link.rxDraws = .answer a :: rs →
    ∃ t, exec i s = .next t ∧ EndedWith (simpleReplyCode s a) t ∧ SameAround s t ∧ SameResults s t ∧
      t.link.log = s.link.log ++ [.txSend s.block.ep (frameOf opc arg) (frameOf opc arg).length, firstCall s a] ∧
      t.link.txDraws = ts ∧ t.link.rxDraws = rs ∧
      t.unread = (firstStream s a).drop
        (if a.inTime = true ∧ 2 ≤ (firstStream s a).length then 2 else min a.lost 1)

/-- Rule R118: READ_RESULTS on the reply `40 05 04 f1 f0 c1 c0 k` with a matching checksum ends with OK, and RES_FINE and RES_COARSE
are the two big-endian values; RES_COEFF is unchanged. -/
def Obligations.ReadResultsCompletes : Prop :=
  ∀ (arg f1 f0 c1 c0 : Byte) (s : State) (ts : List TxDraw) (a1 a2 : RxAnswer) (rs : List RxDraw) (left : List Byte),
    SendsWhole s 0x04 arg ts → s.link.rxDraws = .answer a1 :: .answer a2 :: rs → a1.inTime = true → a2.inTime = true →
    2 ≤ (firstStream s a1).length →
    firstStream s a1 ++ a2.arrived =
      [0x40, 0x05, 0x04, f1, f0, c1, c0, checksum [0x40, 0x05, 0x04, f1, f0, c1, c0]] ++ left →
    ∃ t fine coarse, exec (.readResults arg) s = .next t ∧ EndedWith 0 t ∧ SameAround s t ∧
      t.block.resFine = some fine ∧ fine.toNat = f1.toNat * 256 + f0.toNat ∧
      t.block.resCoarse = some coarse ∧ coarse.toNat = c1.toNat * 256 + c0.toNat ∧
      t.block.resCoeff = s.block.resCoeff ∧ t.unread = left ∧
      t.link.log = s.link.log ++ [.txSend s.block.ep [0x68, 0x01, 0x04, 0x93] 4, .rxOk s.block.ep [0x40, 0x05],
        .rxOk s.block.ep [0x04, f1, f0, c1, c0, checksum [0x40, 0x05, 0x04, f1, f0, c1, c0]]]

/-- Rule R120: READ_COEFF on the reply `40 02 10 v k` with a matching checksum ends with OK and RES_COEFF = v; RES_FINE and RES_COARSE
are unchanged. -/
def Obligations.ReadCoeffCompletes : Prop :=
  ∀ (arg v : Byte) (s : State) (ts : List TxDraw) (a1 a2 : RxAnswer) (rs : List RxDraw) (left : List Byte),
    SendsWhole s 0x10 arg ts → s.link.rxDraws = .answer a1 :: .answer a2 :: rs → a1.inTime = true → a2.inTime = true →
    2 ≤ (firstStream s a1).length →
    firstStream s a1 ++ a2.arrived = [0x40, 0x02, 0x10, v, checksum [0x40, 0x02, 0x10, v]] ++ left →
    ∃ t, exec (.readCoeff arg) s = .next t ∧ EndedWith 0 t ∧ SameAround s t ∧
      t.block.resCoeff = some v ∧ t.block.resFine = s.block.resFine ∧ t.block.resCoarse = s.block.resCoarse ∧ t.unread = left ∧
      t.link.log = s.link.log ++ [.txSend s.block.ep [0x68, 0x01, 0x10, 0x87] 4, .rxOk s.block.ep [0x40, 0x02],
        .rxOk s.block.ep [0x10, v, checksum [0x40, 0x02, 0x10, v]]]

/-- Rules R98 to R101, R112 and R128: a data command whose first receive times out or brings a pair that is no acceptable header
ends with BAD_RESPONSE, and one that brings `96 96` with NEGATIVE_ACK, after one receive; no result register is written. -/
def Obligations.DataCommandsEndOnTheHeader : Prop :=
  ∀ (i : Instr) (opc arg : Byte) (cap : Nat) (s : State) (ts : List TxDraw) (a : RxAnswer) (rs : List RxDraw) (c : BitVec 3),
    dataOf i = some (opc, arg, cap) → SendsWhole s opc arg ts → s.link.rxDraws = .answer a :: rs →
    (c = 3 ∧ ¬ (a.inTime = true ∧ 2 ≤ (firstStream s a).length) ∨
      a.inTime = true ∧ ∃ b0 b1 r, firstStream s a = b0 :: b1 :: r ∧
        (c = 2 ∧ b0 = 0x96 ∧ b1 = 0x96 ∨
          c = 3 ∧ ¬ (b0 = 0x96 ∧ b1 = 0x96) ∧ (b0 ≠ 0x40 ∨ b1 = 0 ∨ cap + 1 < b1.toNat))) →
    ∃ t, exec i s = .next t ∧ EndedWith c t ∧ SameAround s t ∧ SameResults s t ∧
      t.link.log = s.link.log ++ [.txSend s.block.ep (frameOf opc arg) 4, firstCall s a] ∧ t.link.rxDraws = rs

/-- Rules R102, R103, R115 and R135: after an accepted header `40 L`, a data command ends with BAD_RESPONSE on a timeout, with
BAD_CHECKSUM on a mismatch (whatever the echo), and with BAD_RESPONSE on a matching checksum with another echo or payload length; no
result register is written. -/
def Obligations.DataCommandsEndOnTheBody : Prop :=
  ∀ (i : Instr) (opc arg : Byte) (cap : Nat) (s : State) (ts : List TxDraw) (a1 a2 : RxAnswer) (rs : List RxDraw)
    (l : Byte) (r : List Byte) (c : BitVec 3),
    dataOf i = some (opc, arg, cap) → SendsWhole s opc arg ts → s.link.rxDraws = .answer a1 :: .answer a2 :: rs →
    a1.inTime = true → firstStream s a1 = 0x40 :: l :: r → 1 ≤ l.toNat → l.toNat ≤ cap + 1 →
    (c = 3 ∧ ¬ (a2.inTime = true ∧ l.toNat + 1 ≤ (r ++ a2.arrived).length) ∨
      a2.inTime = true ∧ ∃ op p k left, r ++ a2.arrived = op :: p ++ k :: left ∧ p.length + 1 = l.toNat ∧
        (c = 4 ∧ k ≠ checksum (0x40 :: l :: op :: p) ∨
          c = 3 ∧ k = checksum (0x40 :: l :: op :: p) ∧ (op ≠ opc ∨ p.length ≠ cap))) →
    ∃ t, exec i s = .next t ∧ EndedWith c t ∧ SameAround s t ∧ SameResults s t ∧ t.link.rxDraws = rs

/-- Rule R90: a short send ends any of the seven commands with TX_INCOMPLETE, with no receive made and no retry. -/
def Obligations.ShortSendEndsTheCommand : Prop :=
  ∀ (i : Instr) (opc arg : Byte) (s : State) (k : Nat) (ts : List TxDraw),
    commandOf i = some (opc, arg) → Inv s → Ready s → s.link.txDraws = .sent k :: ts → k < (frameOf opc arg).length →
    ∃ t, exec i s = .next t ∧ EndedWith 5 t ∧ SameAround s t ∧ SameResults s t ∧
      t.link = { s.link with txDraws := ts, log := s.link.log ++ [.txSend s.block.ep (frameOf opc arg) k] }

/-- Rules R28, R111 and R156: a command whose TxSend has not returned waits in PHASE = TX with STAT.BUSY = 1 and its request latched;
CODE and the result registers are unchanged and nothing has gone over the link. -/
def Obligations.UnansweredSendWaitsInTx : Prop :=
  ∀ (i : Instr) (opc arg : Byte) (s : State) (ts : List TxDraw),
    commandOf i = some (opc, arg) → Inv s → Ready s → s.link.txDraws = .pending :: ts →
    ∃ t, exec i s = .next t ∧ t.block.busy = true ∧ t.block.phase = .tx ∧ t.block.curOp = some opc ∧ t.block.curArg = some arg ∧
      t.txFrame = frameOf opc arg ∧ t.block.txLen = some (frameOf opc arg).length ∧ t.block.code = s.block.code ∧
      SameAround s t ∧ SameResults s t ∧ t.link = { s.link with txDraws := ts }

/-- Rules R111 and R135: a CMD write of one of the seven opcodes while BUSY raises BUSY_ACCESS, and while idle and not bound raises
UNBOUND; the fault mark is all that changes (rule R133). -/
def Obligations.CommandsFaultWhenNotReady : Prop :=
  ∀ (i : Instr) (opc arg : Byte) (s : State), commandOf i = some (opc, arg) → s.block.fault = none →
    (s.block.busy = true → exec i s = .next { s with block := { s.block with fault := some .busyAccess } }) ∧
    (s.block.busy = false → s.block.bound = false →
      exec i s = .next { s with block := { s.block with fault := some .unbound } })

/-! ## The register accesses -/

/-- Rule R110: BIND while idle writes EP, BOUND and STAT.BOUND and nothing else, and a second BIND replaces EP; while BUSY it raises
BUSY_ACCESS. -/
def Obligations.BindBindsTheEndpoint : Prop :=
  ∀ (ep : Nat) (s : State), s.block.fault = none →
    (s.block.busy = false → exec (.bind ep) s = .next { s with block := { s.block with ep := some ep, bound := true } }) ∧
    (s.block.busy = true → exec (.bind ep) s = .next { s with block := { s.block with fault := some .busyAccess } })

/-- Rules R17, R20 and R23 to R25: RD returns the register's value and has no other effect: STAT at any time, with BUSY in bit 0,
BOUND in bit 1 and bits 7:2 zero; the others while idle and written. -/
def Obligations.RdReturnsTheRegister : Prop :=
  ∀ s : State, s.block.fault = none →
    (∃ t v, exec (.rd .stat) s = .next t ∧ t = { s with port := { s.port with rdata := some (.stat, v) } } ∧
      v.toNat = s.block.busy.toNat + 2 * s.block.bound.toNat) ∧
    (s.block.busy = false →
      (∀ v, s.block.resFine = some v → exec (.rd .resFine) s = .next { s with port := { s.port with rdata := some (.resFine, v) } }) ∧
      (∀ v, s.block.resCoarse = some v →
        exec (.rd .resCoarse) s = .next { s with port := { s.port with rdata := some (.resCoarse, v) } }) ∧
      (∀ v, s.block.resCoeff = some v →
        exec (.rd .resCoeff) s = .next { s with port := { s.port with rdata := some (.resCoeff, v.setWidth 16) } }) ∧
      (∀ v, s.block.code = some v →
        exec (.rd .code) s = .next { s with port := { s.port with rdata := some (.code, v.setWidth 16) } }))

/-- Rules R26, R36 and R135: a read of CODE or a result register raises BUSY_ACCESS while BUSY, and UNWRITTEN_READ while idle and
unwritten; the fault mark is all that changes. -/
def Obligations.RdFaultsWhileBusyOrUnwritten : Prop :=
  ∀ (r : ReadReg) (s : State), s.block.fault = none → r ≠ .stat →
    (s.block.busy = true → exec (.rd r) s = .next { s with block := { s.block with fault := some .busyAccess } }) ∧
    (s.block.busy = false →
      (r = .resFine ∧ s.block.resFine = none ∨ r = .resCoarse ∧ s.block.resCoarse = none ∨
        r = .resCoeff ∧ s.block.resCoeff = none ∨ r = .code ∧ s.block.code = none) →
      exec (.rd r) s = .next { s with block := { s.block with fault := some .unwrittenRead } })

/-- Rules R17, R67 and R135, as steps: an access that is no operation records ILLEGAL_ACCESS whatever the state, or, for a CMD write
of another opcode, BUSY_ACCESS while BUSY and ILLEGAL_OPCODE while idle, bound or not. -/
def Obligations.RefusedAccessesFault : Prop :=
  ∀ (s : State) (es : List HostEvent) (a : HostAccess), s.port.inbox = .access a :: es → s.block.fault = none →
    ((∃ reg, a = .read reg ∧ reg ∉ [1, 2, 3, 4, 6] ∨ ∃ v, a = .write reg v ∧ reg ≠ 0 ∧ reg ≠ 5) →
      step s = .next (raise .illegalAccess (s.setInbox es))) ∧
    (∀ w : Half, a = .write 0 w.toNat → cmdOpc w ∉ commandOpcodes →
      step s = .next (raise (if s.block.busy then .busyAccess else .illegalOpcode) (s.setInbox es)))

/-! ## Frames -/

/-- Rules R22, R25, R34, R133 and R134: what an operation that answers a next state leaves unchanged. No operation changes the
parameters, the events to come or `RES_*` registers but its own; only BIND writes EP and BOUND; only RD returns a value; BIND and RD
touch nothing else of the block but the fault mark, and nothing of the link; an operation that records a fault changes nothing
else, and a command in progress leaves CODE unchanged. -/
def Obligations.OperationsFrame : Prop :=
  ∀ (i : Instr) (s t : State), exec i s = .next t →
    t.params = s.params ∧ t.port.inbox = s.port.inbox ∧
    ((∀ arg, i ≠ .readResults arg) → t.block.resFine = s.block.resFine ∧ t.block.resCoarse = s.block.resCoarse) ∧
    ((∀ arg, i ≠ .readCoeff arg) → t.block.resCoeff = s.block.resCoeff) ∧
    ((∀ ep, i ≠ .bind ep) → t.block.ep = s.block.ep ∧ t.block.bound = s.block.bound) ∧
    ((∀ r, i ≠ .rd r) → t.port = s.port) ∧
    (∀ r, t.block.fault = some r → t = raise r s) ∧
    (t.block.busy = true → t.block.code = s.block.code) ∧
    (commandOf i = none → t.link = s.link ∧
      t.block = { s.block with ep := t.block.ep, bound := t.block.bound, fault := t.block.fault })

/-- Rules R22 and R129: a command that has not ended with OK leaves every result register unchanged, and one that has not ended
leaves CODE unchanged: in the step of its CMD write, and in every later move of the ENGINE. -/
def Obligations.ResultsChangeOnlyOnOk : Prop :=
  ∀ s t : State, (∃ i opc arg, commandOf i = some (opc, arg) ∧ exec i s = .next t) ∨ EngineMove s t →
    (t.block.code ≠ some 0 → SameResults s t) ∧ (t.block.busy = true → t.block.code = s.block.code ∧ SameResults s t)

/-- Rules R22, R25, R28, R29 and R53, the frame of the ENGINE's later moves: they change neither the binding, the fault mark, the request,
the frame, what a read returned nor the parameters, and of the results only those of the command in progress. -/
def Obligations.EngineMovesFrame : Prop :=
  ∀ s t : State, EngineMove s t →
    t.block.bound = s.block.bound ∧ t.block.ep = s.block.ep ∧ t.block.fault = s.block.fault ∧
    t.block.curOp = s.block.curOp ∧ t.block.curArg = s.block.curArg ∧
    t.port.rdata = s.port.rdata ∧ t.port.inbox = s.port.inbox.tail ∧ t.params = s.params ∧
    (s.block.phase ≠ .build → t.block.txBuf = s.block.txBuf ∧ t.block.txLen = s.block.txLen) ∧
    (s.block.curOp ≠ some 0x04 → t.block.resFine = s.block.resFine ∧ t.block.resCoarse = s.block.resCoarse) ∧
    (s.block.curOp ≠ some 0x10 → t.block.resCoeff = s.block.resCoeff)

/-- Rules R29 to R31, the frame of the buffers: a command changes TXBUF only inside its frame and RXBUF only inside the reply it may
read (2 bytes for a simple ack, `cap + 4` for a complex ack of capacity `cap`), and a simple command does not write ACK_L, ACK_OP or
ACK_P; so too in the ENGINE's later moves, which do not write TXBUF. -/
def Obligations.CommandsWriteInsideTheirBuffers : Prop :=
  (∀ (i : Instr) (opc arg : Byte) (s t : State), commandOf i = some (opc, arg) → exec i s = .next t →
    (∀ j, (frameOf opc arg).length ≤ j → t.block.txBuf.read j = s.block.txBuf.read j) ∧
    (∀ c, simpleOf i = some c → (∀ j, 2 ≤ j → t.block.rxBuf.read j = s.block.rxBuf.read j) ∧
      t.block.ackL = s.block.ackL ∧ t.block.ackOp = s.block.ackOp ∧ t.block.ackP = s.block.ackP) ∧
    (∀ c cap, dataOf i = some (c, arg, cap) → ∀ j, cap + 4 ≤ j → t.block.rxBuf.read j = s.block.rxBuf.read j)) ∧
  (∀ (opc : Byte) (s t : State), Inv s → s.block.busy = true → s.block.curOp = some opc → EngineMove s t →
    t.block.txBuf = s.block.txBuf ∧
    (dataCapacity opc = none → (∀ j, 2 ≤ j → t.block.rxBuf.read j = s.block.rxBuf.read j) ∧
      t.block.ackL = s.block.ackL ∧ t.block.ackOp = s.block.ackOp ∧ t.block.ackP = s.block.ackP) ∧
    (∀ cap, dataCapacity opc = some cap → ∀ j, cap + 4 ≤ j → t.block.rxBuf.read j = s.block.rxBuf.read j))

/-- Rules R27 and R40: every link transfer of an operation goes to the one bound endpoint: no operation, and no later move of the
ENGINE, changes the unread bytes of another endpoint. Streams by endpoint, and that the old endpoint's bytes stay listed after a BIND
to another where `LINK_RETAINS_UNREAD` is false, are the model's choice (assumptions 8 and 18). -/
def Obligations.OtherEndpointsAreUntouched : Prop :=
  ∀ s t : State, Inv s → (∃ i, exec i s = .next t) ∨ EngineMove s t →
    ∀ e, s.block.ep ≠ some e → t.link.unread.get e = s.link.unread.get e

/-- Rules R123 and R109: exactly one attempt, counted over the whole command by PHASE. The step of the CMD write, and a later move of the
ENGINE from TX, makes one TxSend and then receives only, or nothing while the send has not returned; a later move from RX_HDR or
RX_BODY makes receives only; and no step makes more receives than leave the command its two, or its one for a simple command. -/
def Obligations.CommandsMakeOneAttempt : Prop :=
  (∀ (i : Instr) (opc arg : Byte) (s t : State), commandOf i = some (opc, arg) → Inv s → Ready s → exec i s = .next t →
    OneSend opc arg s t) ∧
  (∀ (opc arg : Byte) (s t : State), Inv s → s.block.busy = true → s.block.curOp = some opc → s.block.curArg = some arg →
    EngineMove s t →
    (s.block.phase = .tx → OneSend opc arg s t) ∧ (s.block.phase ≠ .tx → NoSend opc s t))

/-- Rule R124: the statuses a command can end with, in the step of its CMD write or in a later move of the ENGINE. A simple command never
ends with BAD_CHECKSUM, and no command with BAD_ARGUMENT. -/
def Obligations.CommandsEndWithTheirStatuses : Prop :=
  (∀ (i : Instr) (opc arg : Byte) (s t : State), commandOf i = some (opc, arg) → Ready s → exec i s = .next t →
    t.block.busy = false → ∃ c, t.block.code = some c ∧ c ∈ ([0, 2, 3, 4, 5] : List (BitVec 3)) ∧
      (simpleOf i ≠ none → c ≠ 4)) ∧
  (∀ (opc : Byte) (s t : State), Inv s → s.block.busy = true → s.block.curOp = some opc → EngineMove s t →
    t.block.busy = false → ∃ c, t.block.code = some c ∧ c ∈ ([0, 2, 3, 4, 5] : List (BitVec 3)) ∧
      (dataCapacity opc = none → c ≠ 4) ∧ (s.block.phase ≠ .tx → c ≠ 5))

/-! ## Faults, reset and the step -/

/-- Rules R20 and R133: a fault is sticky. With a fault recorded no operation takes a step, and the machine takes none but a reset. -/
def Obligations.RecordedFaultStops : Prop :=
  ∀ (s : State) (r : Fault), s.block.fault = some r →
    (∀ i, exec i s = .fault r) ∧ ((∀ left es, s.port.inbox ≠ .reset left :: es) → step s = .fault r)

/-- Rules R37, R144 and R145: the reset event puts every element of the block at its reset value, a recorded fault among them; while
idle it does not touch the link, and during a command no status is written, the log keeps what was sent, and the bound stream holds
what is left. -/
def Obligations.ResetEventResets : Prop :=
  ∀ (s : State) (left : List Byte) (es : List HostEvent), s.port.inbox = .reset left :: es →
    ∃ t, step s = .next t ∧ t.block = Block.reset ∧ t.params = s.params ∧
      t.port = { s.port with inbox := es } ∧
      (s.block.busy = false → t.link = s.link) ∧
      (s.block.busy = true → t.link.txDraws = s.link.txDraws ∧ t.link.rxDraws = s.link.rxDraws ∧
        (∃ l, t.link.log = s.link.log ++ l) ∧
        (∀ e, s.block.ep = some e → s.link.unread.wf → t.link.unread.get e = left))

/-- Rule R37: the reset values of the block. -/
def Obligations.ResetValuesAreTheTable : Prop :=
  ∀ p : Params, let b := (State.resetWith p).block
    b.busy = false ∧ b.bound = false ∧ b.code = none ∧ b.ep = none ∧ b.resFine = none ∧ b.resCoarse = none ∧ b.resCoeff = none ∧
    b.phase = .idle ∧ b.curOp = none ∧ b.curArg = none ∧ b.txLen = none ∧ b.ackL = none ∧ b.ackOp = none ∧ b.ackP = none ∧
    b.fault = none ∧ (∀ i, b.txBuf.read i = none) ∧ (∀ i, b.rxBuf.read i = none) ∧ statWord b.busy b.bound = 0

/-- Rules R72 and R111: a host access that decodes to a well-formed operation is run as exec of it, with the access taken off the
events to come; the word of a table row placed by withFetchWord is the next access. -/
def Obligations.StepRunsTheDecodedOperation : Prop :=
  (∀ (s : State) (a : HostAccess) (es : List HostEvent) (i : Instr), s.port.inbox = .access a :: es → decode a = .ok i →
    i.wellFormed s.params = true → step s = exec i (s.setInbox es)) ∧
  (∀ (s : State) (n w : Nat) (i : Instr), decodeTableWord n w = some i → i.wellFormed s.params = true →
    step (s.withFetchWord n w) = exec i s)

/-- Rule R146: after reset the block "is IDLE and waits for a host access": with no event to come an idle block stays as it is. -/
def Obligations.IdleBlockWaits : Prop :=
  ∀ s : State, s.port.inbox = [] → s.block.fault = none → s.block.busy = false → step s = .next s

/-- Rule R20: "STAT can be read at any time, busy or not, and its read never faults". A host that only polls STAT or waits never
meets a fault, whatever the block and the LINK do meanwhile. -/
def Obligations.PollingStatIsSafe : Prop :=
  ∀ (n : Nat) (s : State), s.block.fault = none → (∀ e ∈ s.port.inbox, e = .wait ∨ e = .access (.read 1)) → SafeRun n s

/-! ## The invariant and the whole machine -/

/-- The invariant holds right after reset, whatever the legal parameters. -/
def Obligations.ResetMeetsTheInvariant : Prop :=
  (∀ p : Params, p.wf → Inv (State.resetWith p)) ∧ Inv State.reset

/-- Rules R18, R20, R27 to R31, R51, R92, R101, R106 and R151: every step, whatever its event, keeps the invariant: PHASE and STAT.BUSY
agree, the binding has a legal endpoint, CODE is a legal status, what an operation in progress holds in its buffers is what its
PHASE says, and no buffer holds a byte outside its size. -/
def Obligations.EveryStepKeepsTheInvariant : Prop := ∀ s t : State, Inv s → step s = .next t → Inv t

/-- Rules R86 and R124: "no host operation can end with BAD_ARGUMENT". No step of the machine leaves CODE = 1 where it was not. -/
def Obligations.NoStepEndsWithBadArgument : Prop :=
  ∀ s t : State, Inv s → s.block.code ≠ some 1 → step s = .next t → t.block.code ≠ some 1

/-- Rule R34: what an operation does depends only on the surviving elements: from two idle states that differ only in TXBUF, RXBUF,
TXLEN, CUR_OP, CUR_ARG, ACK_L, ACK_OP and ACK_P, an operation leads to states that agree on the surviving elements, the link and the
host's side. -/
def Obligations.TransientStateCarriesNothing : Prop :=
  ∀ (i : Instr) (s s' t : State), Inv s → Inv s' → s.block.busy = false → SameSurvivors s s' → exec i s = .next t →
    ∃ t', exec i s' = .next t' ∧ SameSurvivors t t'

/-- Rules R51 and R53: the exchange is one unit. A LINK that has not answered yet, to the TxSend, to the first receive, or (for the two
data commands) to the second, suspends the command in TX, RX_HDR or RX_BODY, and when the ENGINE goes on it comes to where it would
have come without the delay. A call not answered yet, and the ENGINE going on in a later step, are the model's reading (assumptions 5
and 13): rule R44 ends a receive in one step. -/
def Obligations.WaitingDoesNotChangeTheExchange : Prop :=
  ∀ (i : Instr) (opc arg : Byte) (s t : State), commandOf i = some (opc, arg) → Inv s → Ready s → exec i s = .next t →
    (∃ u, exec i (s.setLink { s.link with txDraws := .pending :: s.link.txDraws }) = .next u ∧
      u.block.busy = true ∧ u.block.phase = .tx ∧ resume u = t) ∧
    (∀ k ts, s.link.txDraws = .sent k :: ts → (frameOf opc arg).length ≤ k →
      (∃ u, exec i (s.setLink { s.link with rxDraws := .pending :: s.link.rxDraws }) = .next u ∧
        u.block.busy = true ∧ u.block.phase = .rxHdr ∧ resume u = t) ∧
      (∀ cap a1 rs l r, dataOf i = some (opc, arg, cap) → s.link.rxDraws = .answer a1 :: rs → a1.inTime = true →
        firstStream s a1 = 0x40 :: l :: r → 1 ≤ l.toNat → l.toNat ≤ cap + 1 →
        ∃ u, exec i (s.setLink { s.link with rxDraws := .answer a1 :: .pending :: rs }) = .next u ∧
          u.block.busy = true ∧ u.block.phase = .rxBody ∧ resume u = t))

/-- Rules R42, R44, R51 and R156: while the LINK does not answer, nothing happens. An operation in progress whose TxSend, first receive
or second receive stays unanswered for `n` moves of the ENGINE stands after them where it stood, so that without LINK_TX_LIVE a
command may stay in TX for any number of steps ("a command may hang in PHASE = TX with STAT.BUSY = 1"). A call not answered yet is the
model's reading (assumptions 5 and 13). -/
def Obligations.UnansweredCallsChangeNothing : Prop :=
  ∀ (n : Nat) (s : State), Inv s → s.block.fault = none → s.block.busy = true → s.port.inbox = [] →
    (s.block.phase = .tx →
      core.run n (s.setLink { s.link with txDraws := List.replicate n .pending ++ s.link.txDraws }) = .next s) ∧
    (s.block.phase = .rxBody ∨ s.block.phase = .rxHdr ∧ (s.params.linkRetainsUnread = true ∨ s.unread = []) →
      core.run n (s.setLink { s.link with rxDraws := List.replicate n .pending ++ s.link.rxDraws }) = .next s)

/-- Rule R101: the value of `RX_BUF_CAP` is not observable. No operation and no step does anything else in a state that differs only in
`RX_BUF_CAP`, both values being at least the 8 of rule R7. -/
def Obligations.RxBufCapIsNotObservable : Prop :=
  ∀ (r : Nat) (s t : State), 8 ≤ s.params.rxBufCap → 8 ≤ r →
    (∀ i, exec i s = .next t → exec i (withRxBufCap r s) = .next (withRxBufCap r t)) ∧
    (step s = .next t → step (withRxBufCap r s) = .next (withRxBufCap r t))

/-- Rule R156: a command ends if its TxSend returns, with a bound. From every state in which an operation is in progress, with no fault and no further
event, the operation ends within as many steps as there are listed draws and one more, provided that the TxSend it may be in is
listed to return. -/
def Obligations.CommandsEndWhenTheSendReturns : Prop :=
  ∀ s : State, Inv s → s.block.fault = none → s.block.busy = true → s.port.inbox = [] →
    (s.block.phase = .tx → SendListed s) →
    ∃ n t, n ≤ s.link.txDraws.length + s.link.rxDraws.length + 1 ∧ core.run n s = .next t ∧ t.block.busy = false ∧
      t.block.fault = none

/-- Rule R156: under LINK_TX_LIVE, "every TxSend eventually returns", every command ends: one that starts and one in progress, on
listed draws and on free ones; and LINK_TX_LIVE still holds where it has ended, for the commands after it. -/
def Obligations.CommandsEndUnderLinkTxLive : Prop :=
  (∀ s : State, Inv s → s.block.fault = none → s.block.busy = true → s.port.inbox = [] → LinkTxLive s →
    ∃ n t, core.run n s = .next t ∧ t.block.busy = false ∧ t.block.fault = none ∧ t.block.code ≠ none ∧ LinkTxLive t) ∧
  (∀ (i : Instr) (opc arg : Byte) (s : State), commandOf i = some (opc, arg) → Inv s → Ready s → s.port.inbox = [] →
    LinkTxLive s → ∃ n u t, exec i s = .next u ∧ core.run n u = .next t ∧ t.block.busy = false ∧ t.block.fault = none ∧
      t.block.code ≠ none ∧ LinkTxLive t)
end

