-- ==== Sys2Proof/Laws/Buffer.lean ====
section
/-!
SUPPORT. The laws of the byte buffers: a read after a write, the canonical form kept, and the slice of a run of writes.
-/
namespace Sys2Proof.Machine

open Sys2Proof

theorem Buffer.wf_reset : Buffer.wf [] := List.Pairwise.nil

theorem Buffer.read_write_same (buf : Buffer) (i : Nat) (v : Byte) : (buf.write i v).read i = some v := by
  induction buf with
  | nil => simp [Buffer.write, Buffer.read]
  | cons c t ih =>
    obtain ⟨a, b⟩ := c
    simp only [Buffer.write]
    split_ifs with h1 h2
    · simp [Buffer.read]
    · simp [Buffer.read]
    · have : a ≠ i := fun h => h2 h.symm
      simp [Buffer.read, this, ih]

theorem Buffer.read_write_other (buf : Buffer) {i j : Nat} (v : Byte) (h : j ≠ i) :
    (buf.write i v).read j = buf.read j := by
  induction buf with
  | nil => simp [Buffer.write, Buffer.read, Ne.symm h]
  | cons c t ih =>
    obtain ⟨a, b⟩ := c
    simp only [Buffer.write]
    split_ifs with h1 h2
    · simp [Buffer.read, Ne.symm h]
    · subst h2; simp [Buffer.read, Ne.symm h]
    · simp [Buffer.read, ih]

/-- Every cell of a written buffer is the written one or an old one. -/
theorem Buffer.mem_write {buf : Buffer} {i : Nat} {v : Byte} {c : Host.Cell} (h : c ∈ buf.write i v) :
    c = (i, v) ∨ c ∈ buf := by
  induction buf with
  | nil => simpa [Buffer.write] using h
  | cons d t ih =>
    obtain ⟨a, b⟩ := d
    simp only [Buffer.write] at h
    split_ifs at h with h1 h2
    · simpa using h
    · rcases List.mem_cons.1 h with h | h
      · exact .inl h
      · exact .inr (List.mem_cons_of_mem _ h)
    · rcases List.mem_cons.1 h with h | h
      · exact .inr (h ▸ List.mem_cons_self ..)
      · rcases ih h with h | h
        · exact .inl h
        · exact .inr (List.mem_cons_of_mem _ h)

theorem Buffer.write_wf {buf : Buffer} (h : buf.wf) (i : Nat) (v : Byte) : (buf.write i v).wf := by
  induction buf with
  | nil => simp [Buffer.wf, Buffer.write]
  | cons d t ih =>
    obtain ⟨a, b⟩ := d
    have ht := List.pairwise_cons.1 h
    simp only [Buffer.write]
    split_ifs with h1 h2
    · refine List.pairwise_cons.2 ⟨fun c hc => ?_, h⟩
      rcases List.mem_cons.1 hc with hc | hc
      · subst hc; exact h1
      · exact lt_trans h1 (ht.1 c hc)
    · subst h2; exact List.pairwise_cons.2 ⟨ht.1, ht.2⟩
    · refine List.pairwise_cons.2 ⟨fun c hc => ?_, ih ht.2⟩
      rcases Buffer.mem_write hc with hc | hc
      · subst hc; show a < i; omega
      · exact ht.1 c hc

theorem Buffer.writeAll_wf {buf : Buffer} (h : buf.wf) (i : Nat) (bs : List Byte) : (buf.writeAll i bs).wf := by
  induction bs generalizing buf i with
  | nil => exact h
  | cons b bs ih => exact ih (Buffer.write_wf h i b) (i + 1)

/-- A run of writes touches no index outside it. -/
theorem Buffer.read_writeAll_other (buf : Buffer) (i j : Nat) (bs : List Byte) (h : j < i ∨ i + bs.length ≤ j) :
    (buf.writeAll i bs).read j = buf.read j := by
  induction bs generalizing buf i with
  | nil => rfl
  | cons b bs ih =>
    simp only [List.length_cons] at h
    rw [Buffer.writeAll, ih _ _ (by omega), Buffer.read_write_other _ _ (by omega)]

/-- A run of writes leaves its bytes at their indices. -/
theorem Buffer.read_writeAll (buf : Buffer) (i k : Nat) (bs : List Byte) (h : k < bs.length) :
    (buf.writeAll i bs).read (i + k) = some bs[k] := by
  induction bs generalizing buf i k with
  | nil => simp at h
  | cons b bs ih =>
    cases k with
    | zero =>
      rw [Buffer.writeAll, Buffer.read_writeAll_other _ _ _ _ (by omega)]
      simp [Buffer.read_write_same]
    | succ k =>
      have := ih (buf.write i b) (i + 1) k (by simpa using h)
      rw [show i + (k + 1) = i + 1 + k by omega, Buffer.writeAll, this]
      simp

/-- A run of writes keeps every index below a bound that holds it. -/
theorem Buffer.writeAll_below {buf : Buffer} {i n : Nat} {bs : List Byte} (h : ∀ c ∈ buf, c.1 < n) (hn : i + bs.length ≤ n) :
    ∀ c ∈ buf.writeAll i bs, c.1 < n := by
  induction bs generalizing buf i with
  | nil => exact h
  | cons b bs ih =>
    simp only [List.length_cons] at hn
    refine ih (buf := buf.write i b) (i := i + 1) (fun c hc => ?_) (by omega)
    rcases Buffer.mem_write hc with hc | hc
    · subst hc; show i < n; omega
    · exact h c hc

theorem Buffer.read_eq_none {buf : Buffer} {i : Nat} (h : ∀ c ∈ buf, c.1 ≠ i) : buf.read i = none := by
  induction buf with
  | nil => rfl
  | cons c t ih =>
    obtain ⟨a, b⟩ := c
    have h1 : a ≠ i := h (a, b) (by simp)
    simp only [Buffer.read, h1, if_false]
    exact ih fun c hc => h c (by simp [hc])

/-- An empty range holds no byte. -/
theorem Buffer.slice_empty (buf : Buffer) (lo : Nat) : buf.slice lo lo = [] := by
  simp only [Buffer.slice, List.map_eq_nil_iff, List.filter_eq_nil_iff]
  intro c _; simp

/-- The bytes of a range are its first byte and the rest. -/
theorem Buffer.slice_step {buf : Buffer} (hw : buf.wf) {lo hi : Nat} (h : lo < hi) {v : Byte} (hr : buf.read lo = some v) :
    buf.slice lo hi = v :: buf.slice (lo + 1) hi := by
  induction buf with
  | nil => simp [Buffer.read] at hr
  | cons c t ih =>
    obtain ⟨a, b⟩ := c
    have ht := List.pairwise_cons.1 hw
    by_cases ha : a = lo
    · subst ha
      simp only [Buffer.read, if_true, Option.some.injEq] at hr
      subst hr
      have hall : ∀ c ∈ t, (decide (a ≤ c.1) && decide (c.1 < hi)) = (decide (a + 1 ≤ c.1) && decide (c.1 < hi)) := by
        intro c hc
        have : a < c.1 := ht.1 c hc
        have h1 : a ≤ c.1 := by omega
        have h2 : a + 1 ≤ c.1 := by omega
        simp [h1, h2]
      simp only [Buffer.slice]
      rw [List.filter_cons, List.filter_cons, List.filter_congr hall]
      simp [h]
    · simp only [Buffer.read, ha, if_false] at hr
      have ih' := ih ht.2 hr
      have hlt : a < lo := by
        by_contra hcon
        have : Buffer.read t lo = none := by
          refine Buffer.read_eq_none fun c hc => ?_
          have : a < c.1 := ht.1 c hc
          omega
        simp [this] at hr
      simp only [Buffer.slice] at ih' ⊢
      rw [List.filter_cons, List.filter_cons]
      have h1 : ¬ lo ≤ a := by omega
      have h2 : ¬ lo + 1 ≤ a := by omega
      simpa [h1, h2] using ih'

/-- In a canonical buffer the bytes of a range are those its indices hold. -/
theorem Buffer.slice_eq {buf : Buffer} (hw : buf.wf) {lo : Nat} {bs : List Byte}
    (h : ∀ k (hk : k < bs.length), buf.read (lo + k) = some bs[k]) : buf.slice lo (lo + bs.length) = bs := by
  induction bs generalizing lo with
  | nil => exact Buffer.slice_empty buf lo
  | cons b bs ih =>
    have h0 := h 0 (by simp)
    rw [Buffer.slice_step hw (by simp) (v := b) (by simpa using h0)]
    congr 1
    have := ih (lo := lo + 1) (fun k hk => by
      have := h (k + 1) (by simpa using hk)
      rw [show lo + 1 + k = lo + (k + 1) by omega]
      simpa using this)
    rw [show lo + (b :: bs).length = lo + 1 + bs.length by simp; omega]
    exact this

/-- A run of writes, read back. -/
theorem Buffer.slice_writeAll {buf : Buffer} (hw : buf.wf) (i : Nat) (bs : List Byte) :
    (buf.writeAll i bs).slice i (i + bs.length) = bs :=
  Buffer.slice_eq (Buffer.writeAll_wf hw i bs) fun k hk => Buffer.read_writeAll buf i k bs hk

end Sys2Proof.Machine
end

