-- ==== Sys2Proof/Laws/State.lean ====
section
/-!
SUPPORT. One lemma per update and field of the state, true by rfl, so that no later proof unfolds a record update.
-/
namespace Sys2Proof.Machine

open Sys2Proof

/-! ### State.setPhase -/

@[simp] theorem setPhase_busy (p : Phase) (s : State) : (State.setPhase p s).block.busy = s.block.busy := rfl
@[simp] theorem setPhase_bound (p : Phase) (s : State) : (State.setPhase p s).block.bound = s.block.bound := rfl
@[simp] theorem setPhase_code (p : Phase) (s : State) : (State.setPhase p s).block.code = s.block.code := rfl
@[simp] theorem setPhase_ep (p : Phase) (s : State) : (State.setPhase p s).block.ep = s.block.ep := rfl
@[simp] theorem setPhase_resFine (p : Phase) (s : State) : (State.setPhase p s).block.resFine = s.block.resFine := rfl
@[simp] theorem setPhase_resCoarse (p : Phase) (s : State) : (State.setPhase p s).block.resCoarse = s.block.resCoarse := rfl
@[simp] theorem setPhase_resCoeff (p : Phase) (s : State) : (State.setPhase p s).block.resCoeff = s.block.resCoeff := rfl
@[simp] theorem setPhase_phase (p : Phase) (s : State) : (State.setPhase p s).block.phase = p := rfl
@[simp] theorem setPhase_curOp (p : Phase) (s : State) : (State.setPhase p s).block.curOp = s.block.curOp := rfl
@[simp] theorem setPhase_curArg (p : Phase) (s : State) : (State.setPhase p s).block.curArg = s.block.curArg := rfl
@[simp] theorem setPhase_txBuf (p : Phase) (s : State) : (State.setPhase p s).block.txBuf = s.block.txBuf := rfl
@[simp] theorem setPhase_txLen (p : Phase) (s : State) : (State.setPhase p s).block.txLen = s.block.txLen := rfl
@[simp] theorem setPhase_rxBuf (p : Phase) (s : State) : (State.setPhase p s).block.rxBuf = s.block.rxBuf := rfl
@[simp] theorem setPhase_ackL (p : Phase) (s : State) : (State.setPhase p s).block.ackL = s.block.ackL := rfl
@[simp] theorem setPhase_ackOp (p : Phase) (s : State) : (State.setPhase p s).block.ackOp = s.block.ackOp := rfl
@[simp] theorem setPhase_ackP (p : Phase) (s : State) : (State.setPhase p s).block.ackP = s.block.ackP := rfl
@[simp] theorem setPhase_fault (p : Phase) (s : State) : (State.setPhase p s).block.fault = s.block.fault := rfl
@[simp] theorem setPhase_link (p : Phase) (s : State) : (State.setPhase p s).link = s.link := rfl
@[simp] theorem setPhase_port (p : Phase) (s : State) : (State.setPhase p s).port = s.port := rfl
@[simp] theorem setPhase_params (p : Phase) (s : State) : (State.setPhase p s).params = s.params := rfl

/-! ### State.latch -/

@[simp] theorem latch_busy (opc arg : Byte) (s : State) : (State.latch opc arg s).block.busy = true := rfl
@[simp] theorem latch_bound (opc arg : Byte) (s : State) : (State.latch opc arg s).block.bound = s.block.bound := rfl
@[simp] theorem latch_code (opc arg : Byte) (s : State) : (State.latch opc arg s).block.code = s.block.code := rfl
@[simp] theorem latch_ep (opc arg : Byte) (s : State) : (State.latch opc arg s).block.ep = s.block.ep := rfl
@[simp] theorem latch_resFine (opc arg : Byte) (s : State) : (State.latch opc arg s).block.resFine = s.block.resFine := rfl
@[simp] theorem latch_resCoarse (opc arg : Byte) (s : State) : (State.latch opc arg s).block.resCoarse = s.block.resCoarse := rfl
@[simp] theorem latch_resCoeff (opc arg : Byte) (s : State) : (State.latch opc arg s).block.resCoeff = s.block.resCoeff := rfl
@[simp] theorem latch_phase (opc arg : Byte) (s : State) : (State.latch opc arg s).block.phase = .build := rfl
@[simp] theorem latch_curOp (opc arg : Byte) (s : State) : (State.latch opc arg s).block.curOp = some opc := rfl
@[simp] theorem latch_curArg (opc arg : Byte) (s : State) : (State.latch opc arg s).block.curArg = some arg := rfl
@[simp] theorem latch_txBuf (opc arg : Byte) (s : State) : (State.latch opc arg s).block.txBuf = s.block.txBuf := rfl
@[simp] theorem latch_txLen (opc arg : Byte) (s : State) : (State.latch opc arg s).block.txLen = s.block.txLen := rfl
@[simp] theorem latch_rxBuf (opc arg : Byte) (s : State) : (State.latch opc arg s).block.rxBuf = s.block.rxBuf := rfl
@[simp] theorem latch_ackL (opc arg : Byte) (s : State) : (State.latch opc arg s).block.ackL = s.block.ackL := rfl
@[simp] theorem latch_ackOp (opc arg : Byte) (s : State) : (State.latch opc arg s).block.ackOp = s.block.ackOp := rfl
@[simp] theorem latch_ackP (opc arg : Byte) (s : State) : (State.latch opc arg s).block.ackP = s.block.ackP := rfl
@[simp] theorem latch_fault (opc arg : Byte) (s : State) : (State.latch opc arg s).block.fault = s.block.fault := rfl
@[simp] theorem latch_link (opc arg : Byte) (s : State) : (State.latch opc arg s).link = s.link := rfl
@[simp] theorem latch_port (opc arg : Byte) (s : State) : (State.latch opc arg s).port = s.port := rfl
@[simp] theorem latch_params (opc arg : Byte) (s : State) : (State.latch opc arg s).params = s.params := rfl

/-! ### State.setFrame -/

@[simp] theorem setFrame_busy (f : List Byte) (n : Nat) (s : State) : (State.setFrame f n s).block.busy = s.block.busy := rfl
@[simp] theorem setFrame_bound (f : List Byte) (n : Nat) (s : State) : (State.setFrame f n s).block.bound = s.block.bound := rfl
@[simp] theorem setFrame_code (f : List Byte) (n : Nat) (s : State) : (State.setFrame f n s).block.code = s.block.code := rfl
@[simp] theorem setFrame_ep (f : List Byte) (n : Nat) (s : State) : (State.setFrame f n s).block.ep = s.block.ep := rfl
@[simp] theorem setFrame_resFine (f : List Byte) (n : Nat) (s : State) : (State.setFrame f n s).block.resFine = s.block.resFine := rfl
@[simp] theorem setFrame_resCoarse (f : List Byte) (n : Nat) (s : State) : (State.setFrame f n s).block.resCoarse = s.block.resCoarse := rfl
@[simp] theorem setFrame_resCoeff (f : List Byte) (n : Nat) (s : State) : (State.setFrame f n s).block.resCoeff = s.block.resCoeff := rfl
@[simp] theorem setFrame_phase (f : List Byte) (n : Nat) (s : State) : (State.setFrame f n s).block.phase = s.block.phase := rfl
@[simp] theorem setFrame_curOp (f : List Byte) (n : Nat) (s : State) : (State.setFrame f n s).block.curOp = s.block.curOp := rfl
@[simp] theorem setFrame_curArg (f : List Byte) (n : Nat) (s : State) : (State.setFrame f n s).block.curArg = s.block.curArg := rfl
@[simp] theorem setFrame_txBuf (f : List Byte) (n : Nat) (s : State) : (State.setFrame f n s).block.txBuf = s.block.txBuf.writeAll 0 f := rfl
@[simp] theorem setFrame_txLen (f : List Byte) (n : Nat) (s : State) : (State.setFrame f n s).block.txLen = some n := rfl
@[simp] theorem setFrame_rxBuf (f : List Byte) (n : Nat) (s : State) : (State.setFrame f n s).block.rxBuf = s.block.rxBuf := rfl
@[simp] theorem setFrame_ackL (f : List Byte) (n : Nat) (s : State) : (State.setFrame f n s).block.ackL = s.block.ackL := rfl
@[simp] theorem setFrame_ackOp (f : List Byte) (n : Nat) (s : State) : (State.setFrame f n s).block.ackOp = s.block.ackOp := rfl
@[simp] theorem setFrame_ackP (f : List Byte) (n : Nat) (s : State) : (State.setFrame f n s).block.ackP = s.block.ackP := rfl
@[simp] theorem setFrame_fault (f : List Byte) (n : Nat) (s : State) : (State.setFrame f n s).block.fault = s.block.fault := rfl
@[simp] theorem setFrame_link (f : List Byte) (n : Nat) (s : State) : (State.setFrame f n s).link = s.link := rfl
@[simp] theorem setFrame_port (f : List Byte) (n : Nat) (s : State) : (State.setFrame f n s).port = s.port := rfl
@[simp] theorem setFrame_params (f : List Byte) (n : Nat) (s : State) : (State.setFrame f n s).params = s.params := rfl

/-! ### State.storeRx -/

@[simp] theorem storeRx_busy (i : Nat) (bs : List Byte) (s : State) : (State.storeRx i bs s).block.busy = s.block.busy := rfl
@[simp] theorem storeRx_bound (i : Nat) (bs : List Byte) (s : State) : (State.storeRx i bs s).block.bound = s.block.bound := rfl
@[simp] theorem storeRx_code (i : Nat) (bs : List Byte) (s : State) : (State.storeRx i bs s).block.code = s.block.code := rfl
@[simp] theorem storeRx_ep (i : Nat) (bs : List Byte) (s : State) : (State.storeRx i bs s).block.ep = s.block.ep := rfl
@[simp] theorem storeRx_resFine (i : Nat) (bs : List Byte) (s : State) : (State.storeRx i bs s).block.resFine = s.block.resFine := rfl
@[simp] theorem storeRx_resCoarse (i : Nat) (bs : List Byte) (s : State) : (State.storeRx i bs s).block.resCoarse = s.block.resCoarse := rfl
@[simp] theorem storeRx_resCoeff (i : Nat) (bs : List Byte) (s : State) : (State.storeRx i bs s).block.resCoeff = s.block.resCoeff := rfl
@[simp] theorem storeRx_phase (i : Nat) (bs : List Byte) (s : State) : (State.storeRx i bs s).block.phase = s.block.phase := rfl
@[simp] theorem storeRx_curOp (i : Nat) (bs : List Byte) (s : State) : (State.storeRx i bs s).block.curOp = s.block.curOp := rfl
@[simp] theorem storeRx_curArg (i : Nat) (bs : List Byte) (s : State) : (State.storeRx i bs s).block.curArg = s.block.curArg := rfl
@[simp] theorem storeRx_txBuf (i : Nat) (bs : List Byte) (s : State) : (State.storeRx i bs s).block.txBuf = s.block.txBuf := rfl
@[simp] theorem storeRx_txLen (i : Nat) (bs : List Byte) (s : State) : (State.storeRx i bs s).block.txLen = s.block.txLen := rfl
@[simp] theorem storeRx_rxBuf (i : Nat) (bs : List Byte) (s : State) : (State.storeRx i bs s).block.rxBuf = s.block.rxBuf.writeAll i bs := rfl
@[simp] theorem storeRx_ackL (i : Nat) (bs : List Byte) (s : State) : (State.storeRx i bs s).block.ackL = s.block.ackL := rfl
@[simp] theorem storeRx_ackOp (i : Nat) (bs : List Byte) (s : State) : (State.storeRx i bs s).block.ackOp = s.block.ackOp := rfl
@[simp] theorem storeRx_ackP (i : Nat) (bs : List Byte) (s : State) : (State.storeRx i bs s).block.ackP = s.block.ackP := rfl
@[simp] theorem storeRx_fault (i : Nat) (bs : List Byte) (s : State) : (State.storeRx i bs s).block.fault = s.block.fault := rfl
@[simp] theorem storeRx_link (i : Nat) (bs : List Byte) (s : State) : (State.storeRx i bs s).link = s.link := rfl
@[simp] theorem storeRx_port (i : Nat) (bs : List Byte) (s : State) : (State.storeRx i bs s).port = s.port := rfl
@[simp] theorem storeRx_params (i : Nat) (bs : List Byte) (s : State) : (State.storeRx i bs s).params = s.params := rfl

/-! ### State.setAck -/

@[simp] theorem setAck_busy (l op : Option Byte) (p : List Byte) (s : State) : (State.setAck l op p s).block.busy = s.block.busy := rfl
@[simp] theorem setAck_bound (l op : Option Byte) (p : List Byte) (s : State) : (State.setAck l op p s).block.bound = s.block.bound := rfl
@[simp] theorem setAck_code (l op : Option Byte) (p : List Byte) (s : State) : (State.setAck l op p s).block.code = s.block.code := rfl
@[simp] theorem setAck_ep (l op : Option Byte) (p : List Byte) (s : State) : (State.setAck l op p s).block.ep = s.block.ep := rfl
@[simp] theorem setAck_resFine (l op : Option Byte) (p : List Byte) (s : State) : (State.setAck l op p s).block.resFine = s.block.resFine := rfl
@[simp] theorem setAck_resCoarse (l op : Option Byte) (p : List Byte) (s : State) : (State.setAck l op p s).block.resCoarse = s.block.resCoarse := rfl
@[simp] theorem setAck_resCoeff (l op : Option Byte) (p : List Byte) (s : State) : (State.setAck l op p s).block.resCoeff = s.block.resCoeff := rfl
@[simp] theorem setAck_phase (l op : Option Byte) (p : List Byte) (s : State) : (State.setAck l op p s).block.phase = s.block.phase := rfl
@[simp] theorem setAck_curOp (l op : Option Byte) (p : List Byte) (s : State) : (State.setAck l op p s).block.curOp = s.block.curOp := rfl
@[simp] theorem setAck_curArg (l op : Option Byte) (p : List Byte) (s : State) : (State.setAck l op p s).block.curArg = s.block.curArg := rfl
@[simp] theorem setAck_txBuf (l op : Option Byte) (p : List Byte) (s : State) : (State.setAck l op p s).block.txBuf = s.block.txBuf := rfl
@[simp] theorem setAck_txLen (l op : Option Byte) (p : List Byte) (s : State) : (State.setAck l op p s).block.txLen = s.block.txLen := rfl
@[simp] theorem setAck_rxBuf (l op : Option Byte) (p : List Byte) (s : State) : (State.setAck l op p s).block.rxBuf = s.block.rxBuf := rfl
@[simp] theorem setAck_ackL (l op : Option Byte) (p : List Byte) (s : State) : (State.setAck l op p s).block.ackL = l := rfl
@[simp] theorem setAck_ackOp (l op : Option Byte) (p : List Byte) (s : State) : (State.setAck l op p s).block.ackOp = op := rfl
@[simp] theorem setAck_ackP (l op : Option Byte) (p : List Byte) (s : State) : (State.setAck l op p s).block.ackP = some p := rfl
@[simp] theorem setAck_fault (l op : Option Byte) (p : List Byte) (s : State) : (State.setAck l op p s).block.fault = s.block.fault := rfl
@[simp] theorem setAck_link (l op : Option Byte) (p : List Byte) (s : State) : (State.setAck l op p s).link = s.link := rfl
@[simp] theorem setAck_port (l op : Option Byte) (p : List Byte) (s : State) : (State.setAck l op p s).port = s.port := rfl
@[simp] theorem setAck_params (l op : Option Byte) (p : List Byte) (s : State) : (State.setAck l op p s).params = s.params := rfl

/-! ### State.setResults -/

@[simp] theorem setResults_busy (f c : Half) (s : State) : (State.setResults f c s).block.busy = s.block.busy := rfl
@[simp] theorem setResults_bound (f c : Half) (s : State) : (State.setResults f c s).block.bound = s.block.bound := rfl
@[simp] theorem setResults_code (f c : Half) (s : State) : (State.setResults f c s).block.code = s.block.code := rfl
@[simp] theorem setResults_ep (f c : Half) (s : State) : (State.setResults f c s).block.ep = s.block.ep := rfl
@[simp] theorem setResults_resFine (f c : Half) (s : State) : (State.setResults f c s).block.resFine = some f := rfl
@[simp] theorem setResults_resCoarse (f c : Half) (s : State) : (State.setResults f c s).block.resCoarse = some c := rfl
@[simp] theorem setResults_resCoeff (f c : Half) (s : State) : (State.setResults f c s).block.resCoeff = s.block.resCoeff := rfl
@[simp] theorem setResults_phase (f c : Half) (s : State) : (State.setResults f c s).block.phase = s.block.phase := rfl
@[simp] theorem setResults_curOp (f c : Half) (s : State) : (State.setResults f c s).block.curOp = s.block.curOp := rfl
@[simp] theorem setResults_curArg (f c : Half) (s : State) : (State.setResults f c s).block.curArg = s.block.curArg := rfl
@[simp] theorem setResults_txBuf (f c : Half) (s : State) : (State.setResults f c s).block.txBuf = s.block.txBuf := rfl
@[simp] theorem setResults_txLen (f c : Half) (s : State) : (State.setResults f c s).block.txLen = s.block.txLen := rfl
@[simp] theorem setResults_rxBuf (f c : Half) (s : State) : (State.setResults f c s).block.rxBuf = s.block.rxBuf := rfl
@[simp] theorem setResults_ackL (f c : Half) (s : State) : (State.setResults f c s).block.ackL = s.block.ackL := rfl
@[simp] theorem setResults_ackOp (f c : Half) (s : State) : (State.setResults f c s).block.ackOp = s.block.ackOp := rfl
@[simp] theorem setResults_ackP (f c : Half) (s : State) : (State.setResults f c s).block.ackP = s.block.ackP := rfl
@[simp] theorem setResults_fault (f c : Half) (s : State) : (State.setResults f c s).block.fault = s.block.fault := rfl
@[simp] theorem setResults_link (f c : Half) (s : State) : (State.setResults f c s).link = s.link := rfl
@[simp] theorem setResults_port (f c : Half) (s : State) : (State.setResults f c s).port = s.port := rfl
@[simp] theorem setResults_params (f c : Half) (s : State) : (State.setResults f c s).params = s.params := rfl

/-! ### State.setCoeff -/

@[simp] theorem setCoeff_busy (v : Byte) (s : State) : (State.setCoeff v s).block.busy = s.block.busy := rfl
@[simp] theorem setCoeff_bound (v : Byte) (s : State) : (State.setCoeff v s).block.bound = s.block.bound := rfl
@[simp] theorem setCoeff_code (v : Byte) (s : State) : (State.setCoeff v s).block.code = s.block.code := rfl
@[simp] theorem setCoeff_ep (v : Byte) (s : State) : (State.setCoeff v s).block.ep = s.block.ep := rfl
@[simp] theorem setCoeff_resFine (v : Byte) (s : State) : (State.setCoeff v s).block.resFine = s.block.resFine := rfl
@[simp] theorem setCoeff_resCoarse (v : Byte) (s : State) : (State.setCoeff v s).block.resCoarse = s.block.resCoarse := rfl
@[simp] theorem setCoeff_resCoeff (v : Byte) (s : State) : (State.setCoeff v s).block.resCoeff = some v := rfl
@[simp] theorem setCoeff_phase (v : Byte) (s : State) : (State.setCoeff v s).block.phase = s.block.phase := rfl
@[simp] theorem setCoeff_curOp (v : Byte) (s : State) : (State.setCoeff v s).block.curOp = s.block.curOp := rfl
@[simp] theorem setCoeff_curArg (v : Byte) (s : State) : (State.setCoeff v s).block.curArg = s.block.curArg := rfl
@[simp] theorem setCoeff_txBuf (v : Byte) (s : State) : (State.setCoeff v s).block.txBuf = s.block.txBuf := rfl
@[simp] theorem setCoeff_txLen (v : Byte) (s : State) : (State.setCoeff v s).block.txLen = s.block.txLen := rfl
@[simp] theorem setCoeff_rxBuf (v : Byte) (s : State) : (State.setCoeff v s).block.rxBuf = s.block.rxBuf := rfl
@[simp] theorem setCoeff_ackL (v : Byte) (s : State) : (State.setCoeff v s).block.ackL = s.block.ackL := rfl
@[simp] theorem setCoeff_ackOp (v : Byte) (s : State) : (State.setCoeff v s).block.ackOp = s.block.ackOp := rfl
@[simp] theorem setCoeff_ackP (v : Byte) (s : State) : (State.setCoeff v s).block.ackP = s.block.ackP := rfl
@[simp] theorem setCoeff_fault (v : Byte) (s : State) : (State.setCoeff v s).block.fault = s.block.fault := rfl
@[simp] theorem setCoeff_link (v : Byte) (s : State) : (State.setCoeff v s).link = s.link := rfl
@[simp] theorem setCoeff_port (v : Byte) (s : State) : (State.setCoeff v s).port = s.port := rfl
@[simp] theorem setCoeff_params (v : Byte) (s : State) : (State.setCoeff v s).params = s.params := rfl

/-! ### State.setBinding -/

@[simp] theorem setBinding_busy (e : Nat) (s : State) : (State.setBinding e s).block.busy = s.block.busy := rfl
@[simp] theorem setBinding_bound (e : Nat) (s : State) : (State.setBinding e s).block.bound = true := rfl
@[simp] theorem setBinding_code (e : Nat) (s : State) : (State.setBinding e s).block.code = s.block.code := rfl
@[simp] theorem setBinding_ep (e : Nat) (s : State) : (State.setBinding e s).block.ep = some e := rfl
@[simp] theorem setBinding_resFine (e : Nat) (s : State) : (State.setBinding e s).block.resFine = s.block.resFine := rfl
@[simp] theorem setBinding_resCoarse (e : Nat) (s : State) : (State.setBinding e s).block.resCoarse = s.block.resCoarse := rfl
@[simp] theorem setBinding_resCoeff (e : Nat) (s : State) : (State.setBinding e s).block.resCoeff = s.block.resCoeff := rfl
@[simp] theorem setBinding_phase (e : Nat) (s : State) : (State.setBinding e s).block.phase = s.block.phase := rfl
@[simp] theorem setBinding_curOp (e : Nat) (s : State) : (State.setBinding e s).block.curOp = s.block.curOp := rfl
@[simp] theorem setBinding_curArg (e : Nat) (s : State) : (State.setBinding e s).block.curArg = s.block.curArg := rfl
@[simp] theorem setBinding_txBuf (e : Nat) (s : State) : (State.setBinding e s).block.txBuf = s.block.txBuf := rfl
@[simp] theorem setBinding_txLen (e : Nat) (s : State) : (State.setBinding e s).block.txLen = s.block.txLen := rfl
@[simp] theorem setBinding_rxBuf (e : Nat) (s : State) : (State.setBinding e s).block.rxBuf = s.block.rxBuf := rfl
@[simp] theorem setBinding_ackL (e : Nat) (s : State) : (State.setBinding e s).block.ackL = s.block.ackL := rfl
@[simp] theorem setBinding_ackOp (e : Nat) (s : State) : (State.setBinding e s).block.ackOp = s.block.ackOp := rfl
@[simp] theorem setBinding_ackP (e : Nat) (s : State) : (State.setBinding e s).block.ackP = s.block.ackP := rfl
@[simp] theorem setBinding_fault (e : Nat) (s : State) : (State.setBinding e s).block.fault = s.block.fault := rfl
@[simp] theorem setBinding_link (e : Nat) (s : State) : (State.setBinding e s).link = s.link := rfl
@[simp] theorem setBinding_port (e : Nat) (s : State) : (State.setBinding e s).port = s.port := rfl
@[simp] theorem setBinding_params (e : Nat) (s : State) : (State.setBinding e s).params = s.params := rfl

/-! ### finish -/

@[simp] theorem finish_busy (st : Status) (s : State) : (finish st s).block.busy = false := rfl
@[simp] theorem finish_bound (st : Status) (s : State) : (finish st s).block.bound = s.block.bound := rfl
@[simp] theorem finish_code (st : Status) (s : State) : (finish st s).block.code = some (statusCode st) := rfl
@[simp] theorem finish_ep (st : Status) (s : State) : (finish st s).block.ep = s.block.ep := rfl
@[simp] theorem finish_resFine (st : Status) (s : State) : (finish st s).block.resFine = s.block.resFine := rfl
@[simp] theorem finish_resCoarse (st : Status) (s : State) : (finish st s).block.resCoarse = s.block.resCoarse := rfl
@[simp] theorem finish_resCoeff (st : Status) (s : State) : (finish st s).block.resCoeff = s.block.resCoeff := rfl
@[simp] theorem finish_phase (st : Status) (s : State) : (finish st s).block.phase = .idle := rfl
@[simp] theorem finish_curOp (st : Status) (s : State) : (finish st s).block.curOp = s.block.curOp := rfl
@[simp] theorem finish_curArg (st : Status) (s : State) : (finish st s).block.curArg = s.block.curArg := rfl
@[simp] theorem finish_txBuf (st : Status) (s : State) : (finish st s).block.txBuf = s.block.txBuf := rfl
@[simp] theorem finish_txLen (st : Status) (s : State) : (finish st s).block.txLen = s.block.txLen := rfl
@[simp] theorem finish_rxBuf (st : Status) (s : State) : (finish st s).block.rxBuf = s.block.rxBuf := rfl
@[simp] theorem finish_ackL (st : Status) (s : State) : (finish st s).block.ackL = s.block.ackL := rfl
@[simp] theorem finish_ackOp (st : Status) (s : State) : (finish st s).block.ackOp = s.block.ackOp := rfl
@[simp] theorem finish_ackP (st : Status) (s : State) : (finish st s).block.ackP = s.block.ackP := rfl
@[simp] theorem finish_fault (st : Status) (s : State) : (finish st s).block.fault = s.block.fault := rfl
@[simp] theorem finish_link (st : Status) (s : State) : (finish st s).link = s.link := rfl
@[simp] theorem finish_port (st : Status) (s : State) : (finish st s).port = s.port := rfl
@[simp] theorem finish_params (st : Status) (s : State) : (finish st s).params = s.params := rfl

/-! ### raise -/

@[simp] theorem raise_busy (r : Fault) (s : State) : (raise r s).block.busy = s.block.busy := rfl
@[simp] theorem raise_bound (r : Fault) (s : State) : (raise r s).block.bound = s.block.bound := rfl
@[simp] theorem raise_code (r : Fault) (s : State) : (raise r s).block.code = s.block.code := rfl
@[simp] theorem raise_ep (r : Fault) (s : State) : (raise r s).block.ep = s.block.ep := rfl
@[simp] theorem raise_resFine (r : Fault) (s : State) : (raise r s).block.resFine = s.block.resFine := rfl
@[simp] theorem raise_resCoarse (r : Fault) (s : State) : (raise r s).block.resCoarse = s.block.resCoarse := rfl
@[simp] theorem raise_resCoeff (r : Fault) (s : State) : (raise r s).block.resCoeff = s.block.resCoeff := rfl
@[simp] theorem raise_phase (r : Fault) (s : State) : (raise r s).block.phase = s.block.phase := rfl
@[simp] theorem raise_curOp (r : Fault) (s : State) : (raise r s).block.curOp = s.block.curOp := rfl
@[simp] theorem raise_curArg (r : Fault) (s : State) : (raise r s).block.curArg = s.block.curArg := rfl
@[simp] theorem raise_txBuf (r : Fault) (s : State) : (raise r s).block.txBuf = s.block.txBuf := rfl
@[simp] theorem raise_txLen (r : Fault) (s : State) : (raise r s).block.txLen = s.block.txLen := rfl
@[simp] theorem raise_rxBuf (r : Fault) (s : State) : (raise r s).block.rxBuf = s.block.rxBuf := rfl
@[simp] theorem raise_ackL (r : Fault) (s : State) : (raise r s).block.ackL = s.block.ackL := rfl
@[simp] theorem raise_ackOp (r : Fault) (s : State) : (raise r s).block.ackOp = s.block.ackOp := rfl
@[simp] theorem raise_ackP (r : Fault) (s : State) : (raise r s).block.ackP = s.block.ackP := rfl
@[simp] theorem raise_fault (r : Fault) (s : State) : (raise r s).block.fault = some r := rfl
@[simp] theorem raise_link (r : Fault) (s : State) : (raise r s).link = s.link := rfl
@[simp] theorem raise_port (r : Fault) (s : State) : (raise r s).port = s.port := rfl
@[simp] theorem raise_params (r : Fault) (s : State) : (raise r s).params = s.params := rfl

/-! ### State.setRdata -/

@[simp] theorem setRdata_block (r : ReadReg) (v : Half) (s : State) : (State.setRdata r v s).block = s.block := rfl
@[simp] theorem setRdata_link (r : ReadReg) (v : Half) (s : State) : (State.setRdata r v s).link = s.link := rfl
@[simp] theorem setRdata_port (r : ReadReg) (v : Half) (s : State) : (State.setRdata r v s).port = { s.port with rdata := some (r, v) } := rfl
@[simp] theorem setRdata_params (r : ReadReg) (v : Half) (s : State) : (State.setRdata r v s).params = s.params := rfl

/-! ### State.setLink -/

@[simp] theorem setLink_block (l : Link) (s : State) : (State.setLink l s).block = s.block := rfl
@[simp] theorem setLink_link (l : Link) (s : State) : (State.setLink l s).link = l := rfl
@[simp] theorem setLink_port (l : Link) (s : State) : (State.setLink l s).port = s.port := rfl
@[simp] theorem setLink_params (l : Link) (s : State) : (State.setLink l s).params = s.params := rfl

/-! ### State.setInbox -/

@[simp] theorem setInbox_block (es : List HostEvent) (s : State) : (State.setInbox es s).block = s.block := rfl
@[simp] theorem setInbox_link (es : List HostEvent) (s : State) : (State.setInbox es s).link = s.link := rfl
@[simp] theorem setInbox_port (es : List HostEvent) (s : State) : (State.setInbox es s).port = { s.port with inbox := es } := rfl
@[simp] theorem setInbox_params (es : List HostEvent) (s : State) : (State.setInbox es s).params = s.params := rfl

/-! ### takeReset -/

@[simp] theorem takeReset_block (left : List Byte) (s : State) : (takeReset left s).block = Block.reset := rfl
@[simp] theorem takeReset_link (left : List Byte) (s : State) : (takeReset left s).link = resetLink left s := rfl
@[simp] theorem takeReset_port (left : List Byte) (s : State) : (takeReset left s).port = s.port := rfl
@[simp] theorem takeReset_params (left : List Byte) (s : State) : (takeReset left s).params = s.params := rfl

/-! ### Reading through the update of another part -/

@[simp] theorem unread_setPhase (p : Phase) (s : State) : (State.setPhase p s).unread = s.unread := rfl
@[simp] theorem unread_latch (opc arg : Byte) (s : State) : (State.latch opc arg s).unread = s.unread := rfl
@[simp] theorem unread_setFrame (f : List Byte) (n : Nat) (s : State) : (State.setFrame f n s).unread = s.unread := rfl
@[simp] theorem unread_storeRx (i : Nat) (bs : List Byte) (s : State) : (State.storeRx i bs s).unread = s.unread := rfl
@[simp] theorem unread_finish (st : Status) (s : State) : (finish st s).unread = s.unread := rfl

end Sys2Proof.Machine
end

