-- ==== Sys2Proof/Laws/Streams.lean ====
section
/-!
SUPPORT. The laws of the receive streams: a read after a write, and the canonical form kept.
-/
namespace Sys2Proof.Machine

open Sys2Proof

theorem Streams.wf_reset : Streams.wf [] := ⟨List.Pairwise.nil, by simp⟩

/-- Every listed stream after a write is the written one or an old one. -/
theorem Streams.mem_set {u : Streams} {ep : Nat} {bs : List Byte} {c : Nat × List Byte} (h : c ∈ u.set ep bs) :
    (c = (ep, bs) ∧ bs ≠ []) ∨ c ∈ u := by
  induction u with
  | nil =>
    simp only [Streams.set] at h
    split_ifs at h with hb
    · simp at h
    · exact .inl ⟨by simpa using h, hb⟩
  | cons d t ih =>
    obtain ⟨e, cs⟩ := d
    simp only [Streams.set] at h
    split_ifs at h with h1 hb h2 hb
    · exact .inr h
    · rcases List.mem_cons.1 h with h | h
      · exact .inl ⟨h, hb⟩
      · exact .inr h
    · exact .inr (List.mem_cons_of_mem _ h)
    · rcases List.mem_cons.1 h with h | h
      · exact .inl ⟨h, hb⟩
      · exact .inr (List.mem_cons_of_mem _ h)
    · rcases List.mem_cons.1 h with h | h
      · exact .inr (h ▸ List.mem_cons_self ..)
      · rcases ih h with h | h
        · exact .inl h
        · exact .inr (List.mem_cons_of_mem _ h)

theorem Streams.set_wf {u : Streams} (h : u.wf) (ep : Nat) (bs : List Byte) : (u.set ep bs).wf := by
  refine ⟨?_, fun c hc => ?_⟩
  · replace h := h.1
    induction u with
    | nil => simp only [Streams.set]; split_ifs <;> simp
    | cons d t ih =>
      obtain ⟨e, cs⟩ := d
      have ht := List.pairwise_cons.1 h
      simp only [Streams.set]
      split_ifs with h1 hb h2 hb
      · exact h
      · refine List.pairwise_cons.2 ⟨fun c hc => ?_, h⟩
        rcases List.mem_cons.1 hc with hc | hc
        · subst hc; exact h1
        · exact lt_trans h1 (ht.1 c hc)
      · exact ht.2
      · subst h2; exact List.pairwise_cons.2 ⟨ht.1, ht.2⟩
      · refine List.pairwise_cons.2 ⟨fun c hc => ?_, ih ht.2⟩
        rcases Streams.mem_set hc with ⟨hc, -⟩ | hc
        · subst hc; show e < ep; omega
        · exact ht.1 c hc
  · rcases Streams.mem_set hc with ⟨hc, hb⟩ | hc
    · subst hc; exact hb
    · exact h.2 c hc

theorem Streams.get_eq_nil {u : Streams} {ep : Nat} (h : ∀ c ∈ u, c.1 ≠ ep) : u.get ep = [] := by
  induction u with
  | nil => rfl
  | cons c t ih =>
    obtain ⟨e, bs⟩ := c
    have h1 : e ≠ ep := h (e, bs) (by simp)
    simp only [Streams.get, h1, if_false]
    exact ih fun c hc => h c (by simp [hc])

theorem Streams.get_set_same {u : Streams} (h : u.wf) (ep : Nat) (bs : List Byte) : (u.set ep bs).get ep = bs := by
  replace h := h.1
  induction u with
  | nil => simp only [Streams.set]; split_ifs with hb <;> simp [Streams.get, hb]
  | cons d t ih =>
    obtain ⟨e, cs⟩ := d
    have ht := List.pairwise_cons.1 h
    simp only [Streams.set]
    split_ifs with h1 hb h2 hb
    · subst hb
      refine Streams.get_eq_nil fun c hc => ?_
      rcases List.mem_cons.1 hc with hc | hc
      · subst hc; show e ≠ ep; omega
      · have : e < c.1 := ht.1 c hc
        omega
    · simp [Streams.get]
    · subst hb; subst h2
      refine Streams.get_eq_nil fun c hc => ?_
      have : ep < c.1 := ht.1 c hc
      omega
    · simp [Streams.get]
    · have : e ≠ ep := fun h => h2 h.symm
      simp [Streams.get, this, ih ht.2]

theorem Streams.get_set_other (u : Streams) {ep e' : Nat} (bs : List Byte) (hne : e' ≠ ep) (h : u.wf) :
    (u.set ep bs).get e' = u.get e' := by
  replace h := h.1
  induction u with
  | nil => simp only [Streams.set]; split_ifs <;> simp [Streams.get, Ne.symm hne]
  | cons d t ih =>
    obtain ⟨e, cs⟩ := d
    have ht := List.pairwise_cons.1 h
    simp only [Streams.set]
    split_ifs with h1 hb h2 hb
    · rfl
    · simp [Streams.get, Ne.symm hne]
    · subst h2; simp [Streams.get, Ne.symm hne]
    · subst h2; simp [Streams.get, Ne.symm hne]
    · simp [Streams.get, ih ht.2]

/-- The bound endpoint's stream is replaced in canonical form. -/
theorem unreadSet_wf {s : State} (h : s.link.unread.wf) (bs : List Byte) : (s.unreadSet bs).wf := by
  unfold State.unreadSet
  split
  · exact Streams.set_wf h _ _
  · exact h

end Sys2Proof.Machine
end

