-- ==== Sys2Proof/Laws/Link.lean ====
section
/-!
SUPPORT. What the two link primitives can do, once each, and what they leave unchanged.
-/
namespace Sys2Proof.Machine

open Sys2Proof

/-- A draw for a send changes neither stream nor log, nor the draws for receives. -/
theorem nextTx_keeps (l : Link) :
    l.nextTx.2.unread = l.unread ∧ l.nextTx.2.log = l.log ∧ l.nextTx.2.rxDraws = l.rxDraws := by
  unfold Link.nextTx; split <;> simp

/-- TxSend touches the LINK alone. -/
theorem txSend_keeps (f : List Byte) (s : State) :
    (txSend f s).2.block = s.block ∧ (txSend f s).2.port = s.port ∧ (txSend f s).2.params = s.params ∧
      (txSend f s).2.link.unread = s.link.unread ∧ (txSend f s).2.link.rxDraws = s.link.rxDraws := by
  have h := nextTx_keeps s.link
  unfold txSend
  split <;> (next hl => rw [hl] at h; exact ⟨rfl, rfl, rfl, h.1, h.2.2⟩)

/-- Everything a TxSend can do: it has not returned and nothing went over the link, or it returned a count of at most the frame's
length and the call is logged (rule R42). -/
theorem txSend_cases (f : List Byte) (s : State) :
    ((txSend f s).1 = none ∧ (txSend f s).2.link.log = s.link.log) ∨
      ∃ k, k ≤ f.length ∧ (txSend f s).1 = some k ∧ (txSend f s).2.link.log = s.link.log ++ [.txSend s.block.ep f k] := by
  have h := (nextTx_keeps s.link).2.1
  unfold txSend
  split
  · next l hl => exact .inl ⟨rfl, by simpa [hl] using h⟩
  · next k l hl => exact .inr ⟨_, Nat.min_le_right .., rfl, by simpa [hl] using h⟩

/-- A draw for a receive changes neither stream nor log. -/
theorem nextRx_keeps (l : Link) :
    l.nextRx.2.unread = l.unread ∧ l.nextRx.2.log = l.log ∧ l.nextRx.2.txDraws = l.txDraws := by
  unfold Link.nextRx; split <;> simp

/-- The end of a receive touches the LINK alone. -/
theorem rxAnswer_keeps (n : Nat) (a : RxAnswer) (s : State) :
    (rxAnswer n a s).2.block = s.block ∧ (rxAnswer n a s).2.port = s.port ∧ (rxAnswer n a s).2.params = s.params ∧
      (rxAnswer n a s).2.link.txDraws = s.link.txDraws := by
  unfold rxAnswer; dsimp only; split <;> simp

/-- RxRecv touches the LINK alone. -/
theorem rxRecv_keeps (n : Nat) (s : State) :
    (rxRecv n s).2.block = s.block ∧ (rxRecv n s).2.port = s.port ∧ (rxRecv n s).2.params = s.params ∧
      (rxRecv n s).2.link.txDraws = s.link.txDraws := by
  unfold rxRecv
  split
  · next l h => simpa [h] using (nextRx_keeps s.link).2.2
  · next a l h =>
    have := rxAnswer_keeps n a (s.setLink l)
    have h2 : l.txDraws = s.link.txDraws := by simpa [h] using (nextRx_keeps s.link).2.2
    simpa [h2] using this

/-- A receive that returns OK returns exactly the bytes asked for (rule R43). -/
theorem rxRecv_ok_length {n : Nat} {s t : State} {bs : List Byte} (h : rxRecv n s = (.ok bs, t)) : bs.length = n := by
  unfold rxRecv at h
  split at h
  · simp at h
  · unfold rxAnswer at h
    dsimp only at h
    split at h
    · next hc =>
      simp only [Prod.mk.injEq, RxResult.ok.injEq] at h
      rw [← h.1, List.length_take]
      omega
    · simp at h

/-- A receive keeps the streams in canonical form. -/
theorem rxRecv_streams {n : Nat} {s : State} (h : s.link.unread.wf) : (rxRecv n s).2.link.unread.wf := by
  unfold rxRecv
  split
  · next l hl =>
    have : l.unread = s.link.unread := by simpa [hl] using (nextRx_keeps s.link).1
    show l.unread.wf
    rw [this]
    exact h
  · next a l hl =>
    have hl' : l.unread = s.link.unread := by simpa [hl] using (nextRx_keeps s.link).1
    have hu : (s.setLink l).link.unread.wf := by
      show l.unread.wf
      rw [hl']
      exact h
    unfold rxAnswer
    dsimp only
    split <;> exact unreadSet_wf hu _

theorem settleUnread_keeps (s : State) :
    (settleUnread s).block = s.block ∧ (settleUnread s).port = s.port ∧ (settleUnread s).params = s.params ∧
      (settleUnread s).link.txDraws = s.link.txDraws ∧ (settleUnread s).link.rxDraws = s.link.rxDraws ∧
      (settleUnread s).link.freeCount = s.link.freeCount ∧ (settleUnread s).link.log = s.link.log := by
  unfold settleUnread; split <;> simp

theorem settleUnread_streams {s : State} (h : s.link.unread.wf) : (settleUnread s).link.unread.wf := by
  unfold settleUnread
  split
  · exact h
  · exact unreadSet_wf h _

end Sys2Proof.Machine
end

