-- ==== Sys2Proof/Laws/Exchange.lean ====
section
/-!
SUPPORT. What the exchange of a command leaves unchanged, part by part: the frame every statement about a command cites.
-/
namespace Sys2Proof.Machine

open Sys2Proof

/-- The state an exchange never touches before it delivers a result: the binding, the result registers, the latched operation, the
fault mark, the host's side and the parameters (rules R12, R22, R28 and R129). -/
structure Keeps (s t : State) : Prop where
  bound : t.block.bound = s.block.bound
  ep : t.block.ep = s.block.ep
  resFine : t.block.resFine = s.block.resFine
  resCoarse : t.block.resCoarse = s.block.resCoarse
  resCoeff : t.block.resCoeff = s.block.resCoeff
  curOp : t.block.curOp = s.block.curOp
  curArg : t.block.curArg = s.block.curArg
  fault : t.block.fault = s.block.fault
  port : t.port = s.port
  params : t.params = s.params

theorem Keeps.refl (s : State) : Keeps s s := ⟨rfl, rfl, rfl, rfl, rfl, rfl, rfl, rfl, rfl, rfl⟩

theorem Keeps.trans {s t u : State} (h : Keeps s t) (k : Keeps t u) : Keeps s u :=
  ⟨k.bound.trans h.bound, k.ep.trans h.ep, k.resFine.trans h.resFine, k.resCoarse.trans h.resCoarse,
    k.resCoeff.trans h.resCoeff, k.curOp.trans h.curOp, k.curArg.trans h.curArg, k.fault.trans h.fault,
    k.port.trans h.port, k.params.trans h.params⟩

/-- What touches only the LINK keeps all of it. -/
theorem Keeps.of_block {s t : State} (hb : t.block = s.block) (hp : t.port = s.port) (hq : t.params = s.params) : Keeps s t := by
  constructor <;> simp [hb, hp, hq]

theorem Keeps.setPhase (p : Phase) (s : State) : Keeps s (s.setPhase p) := by constructor <;> rfl
theorem Keeps.setFrame (f : List Byte) (n : Nat) (s : State) : Keeps s (s.setFrame f n) := by constructor <;> rfl
theorem Keeps.storeRx (i : Nat) (bs : List Byte) (s : State) : Keeps s (s.storeRx i bs) := by constructor <;> rfl
theorem Keeps.setAck (l op : Option Byte) (p : List Byte) (s : State) : Keeps s (s.setAck l op p) := by constructor <;> rfl
theorem Keeps.finish (st : Status) (s : State) : Keeps s (finish st s) := by constructor <;> rfl
theorem Keeps.txSend (f : List Byte) (s : State) : Keeps s (txSend f s).2 :=
  .of_block (txSend_keeps f s).1 (txSend_keeps f s).2.1 (txSend_keeps f s).2.2.1
theorem Keeps.rxRecv (n : Nat) (s : State) : Keeps s (rxRecv n s).2 :=
  .of_block (rxRecv_keeps n s).1 (rxRecv_keeps n s).2.1 (rxRecv_keeps n s).2.2.1
theorem Keeps.settleUnread (s : State) : Keeps s (settleUnread s) :=
  .of_block (settleUnread_keeps s).1 (settleUnread_keeps s).2.1 (settleUnread_keeps s).2.2.1

/-- A sequence keeps what both its parts keep. -/
theorem Flow.andThen_keeps {α β : Type} {s : State} {f : Flow α} {k : α → State → Flow β} (hf : Keeps s f.state)
    (hk : ∀ a t, f = .go a t → Keeps t (k a t).state) : Keeps s (f.andThen k).state := by
  cases f with
  | wait t => exact hf
  | ended t => exact hf
  | go a t => exact hf.trans (hk a t rfl)

theorem transmit_keeps (s : State) : Keeps s (transmit s).state := by
  have h := (Keeps.setPhase .tx s).trans (Keeps.txSend (s.setPhase .tx).txFrame _)
  unfold transmit
  dsimp only
  split
  · next t ht => rw [ht] at h; exact h
  · next k t ht => rw [ht] at h; split <;> exact h

theorem sendBuilt_keeps (s : State) : Keeps s (sendBuilt s).state := by
  refine Flow.andThen_keeps (transmit_keeps s) fun r t _ => ?_
  cases r with
  | sent => exact .refl t
  | short => exact .finish _ t

theorem buildFrame_keeps (opc : Byte) (n : Nat) (pay : Option (List Byte)) (s : State) : Keeps s (buildFrame opc n pay s).2 := by
  unfold buildFrame
  split_ifs
  · exact .refl s
  · exact .refl s
  · exact .setFrame _ _ s

theorem sendFrame_keeps (opc : Byte) (n : Nat) (pay : Option (List Byte)) (s : State) : Keeps s (sendFrame opc n pay s).state := by
  have h := (Keeps.setPhase .build s).trans (buildFrame_keeps opc n pay _)
  unfold sendFrame
  split
  · next t ht => rw [ht] at h; exact h.trans (.finish _ t)
  · next t ht => rw [ht] at h; exact h.trans (sendBuilt_keeps t)

/-- The first receive of either reader. -/
theorem rxHeader_keeps (s : State) : Keeps s (rxRecv 2 (settleUnread (s.setPhase .rxHdr))).2 :=
  ((Keeps.setPhase .rxHdr s).trans (.settleUnread _)).trans (.rxRecv 2 _)

theorem readSimpleAck_keeps (s : State) : Keeps s (readSimpleAck s).state := by
  have h := rxHeader_keeps s
  unfold readSimpleAck
  split
  · next t ht => rw [ht] at h; exact h
  · next t ht => rw [ht] at h; exact h
  · next bs t ht => rw [ht] at h; exact h.trans (.storeRx 0 bs t)

theorem readComplexBody_keeps (s : State) : Keeps s (readComplexBody s).state := by
  have h := (Keeps.setPhase .rxBody s).trans (.rxRecv (s.declaredLength + 1) _)
  unfold readComplexBody
  split
  · next t ht => rw [ht] at h; exact h
  · next t ht => rw [ht] at h; exact h
  · next bs t ht =>
    rw [ht] at h
    dsimp only
    split_ifs
    · exact (h.trans (.storeRx 2 bs t)).trans (.setAck _ _ _ _)
    · exact h.trans (.storeRx 2 bs t)

theorem readComplexAck_keeps (cap : Nat) (s : State) : Keeps s (readComplexAck cap s).state := by
  have h := rxHeader_keeps s
  unfold readComplexAck
  split
  · next t ht => rw [ht] at h; exact h
  · next t ht => rw [ht] at h; exact h
  · next bs t ht =>
    rw [ht] at h
    have h' := h.trans (.storeRx 0 bs t)
    dsimp only
    split
    · split
      · exact h'
      · exact h'.trans (readComplexBody_keeps _)
    · exact h'

theorem simpleCheck_keeps (a : AckOutcome) (s : State) : Keeps s (simpleCheck a s).state :=
  (Keeps.setPhase .check s).trans (.finish _ _)

theorem complexCheck_keeps (opc : Byte) (n : Nat) (a : AckOutcome) (s : State) : Keeps s (complexCheck opc n a s).state := by
  have h := Keeps.setPhase .check s
  unfold complexCheck
  cases a with
  | negative => exact h.trans (.finish _ _)
  | error => exact h.trans (.finish _ _)
  | badChecksum => exact h.trans (.finish _ _)
  | positive =>
    dsimp only
    split
    · split_ifs
      · exact h
      · exact h.trans (.finish _ _)
    · exact h.trans (.finish _ _)

/-- RUN_SIMPLE keeps everything an exchange keeps, in every PHASE it can go on from. -/
theorem runSimple_keeps (opc : Byte) (n : Nat) (pay : Option (List Byte)) (p : Phase) (s : State) :
    Keeps s (runSimple opc n pay p s).state := by
  have ack : ∀ t, Keeps t ((readSimpleAck t).andThen simpleCheck).state := fun t =>
    Flow.andThen_keeps (readSimpleAck_keeps t) fun a u _ => simpleCheck_keeps a u
  cases p with
  | build => exact Flow.andThen_keeps (sendFrame_keeps opc n pay s) fun _ t _ => ack t
  | tx => exact Flow.andThen_keeps (sendBuilt_keeps s) fun _ t _ => ack t
  | rxHdr => exact ack s
  | idle => exact .refl s
  | rxBody => exact .refl s
  | check => exact .refl s

/-- RUN_COMPLEX keeps everything an exchange keeps, in every PHASE it can go on from. -/
theorem runComplex_keeps (opc : Byte) (cap n : Nat) (p : Phase) (s : State) : Keeps s (runComplex opc cap n p s).state := by
  have ack : ∀ t, Keeps t ((readComplexAck cap t).andThen (complexCheck opc n)).state := fun t =>
    Flow.andThen_keeps (readComplexAck_keeps cap t) fun a u _ => complexCheck_keeps opc n a u
  cases p with
  | build => exact Flow.andThen_keeps (sendFrame_keeps opc 0 none s) fun _ t _ => ack t
  | tx => exact Flow.andThen_keeps (sendBuilt_keeps s) fun _ t _ => ack t
  | rxHdr => exact ack s
  | rxBody => exact Flow.andThen_keeps (readComplexBody_keeps s) fun a u _ => complexCheck_keeps opc n a u
  | idle => exact .refl s
  | check => exact .refl s

end Sys2Proof.Machine
end

