-- ==== Sys2Proof/Laws/Live.lean ====
section
/-!
SUPPORT. LINK_TX_LIVE (70_reset_and_hazards.md rule R156): the LINK only moves on to a later LINK, the property is kept on the way,
and a run that assumes it has it.
-/
namespace Sys2Proof

open Sys2Proof.Machine

theorem LaterLink.refl (l : Link) : LaterLink l l := ⟨rfl, List.suffix_refl _, Nat.le_refl _⟩

theorem LaterLink.trans {l m n : Link} (h : LaterLink l m) (k : LaterLink m n) : LaterLink l n :=
  ⟨k.txLive.trans h.txLive, k.txDraws.trans h.txDraws, h.freeCount.trans k.freeCount⟩

/-- A draw for a send leaves a later LINK. -/
theorem nextTx_later (l : Link) : LaterLink l l.nextTx.2 := by
  unfold Link.nextTx
  split
  · next d ds h => exact ⟨rfl, h ▸ List.suffix_cons d ds, Nat.le_refl _⟩
  · exact ⟨rfl, List.suffix_refl _, Nat.le_succ _⟩

/-- A draw for a receive leaves a later LINK. -/
theorem nextRx_later (l : Link) : LaterLink l l.nextRx.2 := by
  unfold Link.nextRx
  split
  · exact ⟨rfl, List.suffix_refl _, Nat.le_refl _⟩
  · exact ⟨rfl, List.suffix_refl _, Nat.le_succ _⟩

/-- TxSend leaves a later LINK. -/
theorem txSend_later (f : List Byte) (s : State) : LaterLink s.link (txSend f s).2.link := by
  have h := nextTx_later s.link
  unfold txSend
  split <;> (next hl => rw [hl] at h; exact ⟨h.txLive, h.txDraws, h.freeCount⟩)

/-- RxRecv leaves a later LINK. -/
theorem rxRecv_later (n : Nat) (s : State) : LaterLink s.link (rxRecv n s).2.link := by
  have h := nextRx_later s.link
  unfold rxRecv
  split
  · next l hl => rw [hl] at h; exact h
  · next a l hl =>
    rw [hl] at h
    unfold rxAnswer
    dsimp only
    split <;> exact ⟨h.txLive, h.txDraws, h.freeCount⟩

/-- LINK_TX_LIVE still holds on every later LINK, so that it covers every later TxSend. -/
theorem LinkTxLive.later {s t : State} (h : LinkTxLive s) (hl : LaterLink s.link t.link) : LinkTxLive t :=
  fun m hm => h m (hl.trans hm)

/-- Where the run assumes LINK_TX_LIVE, a TxSend returns when its listed draws are used up, if not before. -/
theorem txReturns_of_assumed (l : Link) (h : l.txLive = true) : TxReturns l := by
  suffices ∀ ds (m : Link), m.txLive = true → m.txDraws = ds → TxReturns m from this _ l h rfl
  intro ds
  induction ds with
  | nil => exact fun m hm hd => ⟨0, Config.freeSent m.freeCount, by simp [useTx, Link.nextTx, Link.freeTxDraw, hd, hm]⟩
  | cons d ds ih =>
    intro m hm hd
    obtain ⟨n, k, hk⟩ := ih m.nextTx.2 ((nextTx_later m).txLive.trans hm) (by simp [Link.nextTx, hd])
    exact ⟨n + 1, k, hk⟩

/-- A run that assumes LINK_TX_LIVE has it. -/
theorem linkTxLive_of_assumed {s : State} (h : s.link.txLive = true) : LinkTxLive s :=
  fun m hm => txReturns_of_assumed m (hm.txLive.trans h)

end Sys2Proof
end

