-- ==== Sys2Proof/Laws/PerInstr.lean ====
section
/-!
SUPPORT. What is true of every operation as it is written: its encoding is an access the host can make.
-/
namespace Sys2Proof.Laws.EncodeFits

open Sys2Proof

/-- The access is one the register interface allows, with a value that fits the register (10_state.md rules R17, R19 and R27). -/
def Fits (p : Params) : HostAccess → Prop
  | .write reg v => reg = 0 ∧ v < 2 ^ 16 ∨ reg = 5 ∧ v < 2 ^ p.epWidth
  | .read reg => reg = 1 ∨ reg = 2 ∨ reg = 3 ∨ reg = 4 ∨ reg = 6

def Statement (i : Instr) : Prop := ∀ p : Params, i.wellFormed p = true → Fits p (encode i)

theorem startMeas (arg : Byte) : Statement (.startMeas arg) := fun _ _ => .inl ⟨rfl, (cmdWord arg 0x01).isLt⟩

theorem stopMeas (arg : Byte) : Statement (.stopMeas arg) := fun _ _ => .inl ⟨rfl, (cmdWord arg 0x02).isLt⟩

theorem readResults (arg : Byte) : Statement (.readResults arg) := fun _ _ => .inl ⟨rfl, (cmdWord arg 0x04).isLt⟩

theorem setCoeff (c : Byte) : Statement (.setCoeff c) := fun _ _ => .inl ⟨rfl, (cmdWord c 0x08).isLt⟩

theorem readCoeff (arg : Byte) : Statement (.readCoeff arg) := fun _ _ => .inl ⟨rfl, (cmdWord arg 0x10).isLt⟩

theorem stopAutoSend (arg : Byte) : Statement (.stopAutoSend arg) := fun _ _ => .inl ⟨rfl, (cmdWord arg 0x20).isLt⟩

theorem enableAutoSend (arg : Byte) : Statement (.enableAutoSend arg) := fun _ _ => .inl ⟨rfl, (cmdWord arg 0x40).isLt⟩

theorem bind (ep : Nat) : Statement (.bind ep) := fun _ h => .inr ⟨rfl, of_decide_eq_true h⟩

theorem rd (reg : ReadReg) : Statement (.rd reg) := fun _ _ => by cases reg <;> simp [encode, regNumber, Fits]

end Sys2Proof.Laws.EncodeFits
end

