-- ==== Sys2Proof/Laws/Step.lean ====
section
/-!
SUPPORT. Everything a step can do, said once: the inversion lemmas of the fault check, the command request, the register accesses
and the step.
-/
namespace Sys2Proof.Machine

open Sys2Proof

theorem unlessFaulted_clear {s : State} (h : s.block.fault = none) (k : Host.Outcome State Fault Refusal) :
    unlessFaulted s k = k := by simp [unlessFaulted, h]

/-- "Once a fault is recorded, no access takes a step at all" (rule R20). -/
theorem unlessFaulted_faulted {s : State} {r : Fault} (h : s.block.fault = some r) (k : Host.Outcome State Fault Refusal) :
    unlessFaulted s k = .fault r := by simp [unlessFaulted, h]

theorem unlessFaulted_next {s t : State} {k : Host.Outcome State Fault Refusal} (h : unlessFaulted s k = .next t) :
    s.block.fault = none ∧ k = .next t := by
  unfold unlessFaulted at h
  split at h
  · cases h
  · next hf => exact ⟨hf, h⟩

/-- A command request that answers a next state raised BUSY_ACCESS, raised UNBOUND, or started its command. -/
theorem startCommand_next {opc arg : Byte} {body : Phase → State → State} {s t : State}
    (h : startCommand opc arg body s = .next t) :
    s.block.fault = none ∧
      ((s.block.busy = true ∧ t = raise .busyAccess s) ∨
        (s.block.busy = false ∧ s.block.bound = true ∧ t = body .build (s.latch opc arg)) ∨
        (s.block.busy = false ∧ s.block.bound = false ∧ t = raise .unbound s)) := by
  obtain ⟨hf, h⟩ := unlessFaulted_next h
  refine ⟨hf, ?_⟩
  split_ifs at h with hb hn
  · cases h; exact .inl ⟨hb, rfl⟩
  · cases h; exact .inr (.inl ⟨by simpa using hb, hn, rfl⟩)
  · cases h; exact .inr (.inr ⟨by simpa using hb, by simpa using hn, rfl⟩)

/-- BIND raised BUSY_ACCESS or bound the endpoint. -/
theorem execBind_next {ep : Nat} {s t : State} (h : execBind ep s = .next t) :
    s.block.fault = none ∧
      ((s.block.busy = true ∧ t = raise .busyAccess s) ∨ (s.block.busy = false ∧ t = s.setBinding ep)) := by
  obtain ⟨hf, h⟩ := unlessFaulted_next h
  refine ⟨hf, ?_⟩
  split_ifs at h with hb
  · cases h; exact .inl ⟨hb, rfl⟩
  · cases h; exact .inr ⟨by simpa using hb, rfl⟩

/-- RD raised BUSY_ACCESS or UNWRITTEN_READ, or returned the register's value. -/
theorem execRd_next {r : ReadReg} {s t : State} (h : execRd r s = .next t) :
    s.block.fault = none ∧
      (t = raise .busyAccess s ∨ t = raise .unwrittenRead s ∨ ∃ v, heldValue s.block r = some v ∧ t = s.setRdata r v) := by
  obtain ⟨hf, h⟩ := unlessFaulted_next h
  refine ⟨hf, ?_⟩
  split_ifs at h with hb
  · cases h; exact .inl rfl
  · split at h
    · next v hv => cases h; exact .inr (.inr ⟨v, hv, rfl⟩)
    · cases h; exact .inr (.inl rfl)

/-- A refused access that answers a next state raised a fault. -/
theorem refuseAccess_next {e : DecodeError} {s t : State} (h : refuseAccess e s = .next t) :
    s.block.fault = none ∧ ∃ r, t = raise r s := by
  cases e with
  | illegalAccess =>
    obtain ⟨hf, h⟩ := unlessFaulted_next h
    cases h; exact ⟨hf, _, rfl⟩
  | illegalOpcode =>
    obtain ⟨hf, h⟩ := unlessFaulted_next h
    split_ifs at h <;> (cases h; exact ⟨hf, _, rfl⟩)
  | valueTooWide =>
    obtain ⟨-, h⟩ := unlessFaulted_next h
    cases h

/-- A command request that answers a next state raised a fault or started its command, whose body is the one CUR_OP selects. -/
theorem startCommand_body {opc arg : Byte} {body : Phase → State → State} {s t : State}
    (hm : opc ∈ ([0x01, 0x02, 0x04, 0x08, 0x10, 0x20, 0x40] : List Byte)) (hb : ∀ u, body .build u = bodyOf opc .build u)
    (h : startCommand opc arg body s = .next t) :
    s.block.fault = none ∧
      ((∃ r, t = raise r s) ∨
        (s.block.busy = false ∧ s.block.bound = true ∧ opc ∈ ([0x01, 0x02, 0x04, 0x08, 0x10, 0x20, 0x40] : List Byte) ∧
          t = bodyOf opc .build (s.latch opc arg))) := by
  obtain ⟨hf, ⟨-, ht⟩ | ⟨h1, h2, ht⟩ | ⟨-, -, ht⟩⟩ := startCommand_next h
  · exact ⟨hf, .inl ⟨_, ht⟩⟩
  · exact ⟨hf, .inr ⟨h1, h2, hm, (hb _) ▸ ht⟩⟩
  · exact ⟨hf, .inl ⟨_, ht⟩⟩

/-- Everything an operation that answers a next state can do: it raised a fault, started a command whose body ran, bound an
endpoint, or returned a register's value. -/
theorem exec_next {i : Instr} {s t : State} (h : exec i s = .next t) :
    s.block.fault = none ∧
      ((∃ r, t = raise r s) ∨
        (∃ opc arg, s.block.busy = false ∧ s.block.bound = true ∧ opc ∈ ([0x01, 0x02, 0x04, 0x08, 0x10, 0x20, 0x40] : List Byte) ∧
          t = bodyOf opc .build (s.latch opc arg)) ∨
        (∃ ep, i = .bind ep ∧ s.block.busy = false ∧ t = s.setBinding ep) ∨
        (∃ r v, i = .rd r ∧ heldValue s.block r = some v ∧ t = s.setRdata r v)) := by
  cases i with
  | startMeas arg =>
    obtain ⟨hf, hr | hs⟩ := startCommand_body (by decide) (fun _ => by simp [bodyOf]) h
    · exact ⟨hf, .inl hr⟩
    · exact ⟨hf, .inr (.inl ⟨_, _, hs⟩)⟩
  | stopMeas arg =>
    obtain ⟨hf, hr | hs⟩ := startCommand_body (by decide) (fun _ => by simp [bodyOf]) h
    · exact ⟨hf, .inl hr⟩
    · exact ⟨hf, .inr (.inl ⟨_, _, hs⟩)⟩
  | readResults arg =>
    obtain ⟨hf, hr | hs⟩ := startCommand_body (by decide) (fun _ => by simp [bodyOf]) h
    · exact ⟨hf, .inl hr⟩
    · exact ⟨hf, .inr (.inl ⟨_, _, hs⟩)⟩
  | setCoeff c =>
    obtain ⟨hf, hr | hs⟩ := startCommand_body (by decide) (fun _ => by simp [bodyOf]) h
    · exact ⟨hf, .inl hr⟩
    · exact ⟨hf, .inr (.inl ⟨_, _, hs⟩)⟩
  | readCoeff arg =>
    obtain ⟨hf, hr | hs⟩ := startCommand_body (by decide) (fun _ => by simp [bodyOf]) h
    · exact ⟨hf, .inl hr⟩
    · exact ⟨hf, .inr (.inl ⟨_, _, hs⟩)⟩
  | stopAutoSend arg =>
    obtain ⟨hf, hr | hs⟩ := startCommand_body (by decide) (fun _ => by simp [bodyOf]) h
    · exact ⟨hf, .inl hr⟩
    · exact ⟨hf, .inr (.inl ⟨_, _, hs⟩)⟩
  | enableAutoSend arg =>
    obtain ⟨hf, hr | hs⟩ := startCommand_body (by decide) (fun _ => by simp [bodyOf]) h
    · exact ⟨hf, .inl hr⟩
    · exact ⟨hf, .inr (.inl ⟨_, _, hs⟩)⟩
  | bind ep =>
    obtain ⟨hf, hc⟩ := execBind_next h
    refine ⟨hf, ?_⟩
    rcases hc with ⟨-, ht⟩ | ⟨h1, ht⟩
    · exact .inl ⟨_, ht⟩
    · exact .inr (.inr (.inl ⟨ep, rfl, h1, ht⟩))
  | rd r =>
    obtain ⟨hf, hc⟩ := execRd_next h
    refine ⟨hf, ?_⟩
    rcases hc with ht | ht | ⟨v, hv, ht⟩
    · exact .inl ⟨_, ht⟩
    · exact .inl ⟨_, ht⟩
    · exact .inr (.inr (.inr ⟨r, v, rfl, hv, ht⟩))

/-- Everything a step that answers a next state can do. -/
theorem step_next {s t : State} (h : step s = .next t) :
    (∃ left es, s.port.inbox = .reset left :: es ∧ t = takeReset left (s.setInbox es)) ∨
      (∃ es, s.block.fault = none ∧ (s.port.inbox = .wait :: es ∨ s.port.inbox = [] ∧ es = []) ∧ t = resume (s.setInbox es)) ∨
      (∃ a i es, s.port.inbox = .access a :: es ∧ decode a = .ok i ∧ i.wellFormed s.params = true ∧
        exec i (s.setInbox es) = .next t) ∨
      (∃ a es r, s.port.inbox = .access a :: es ∧ s.block.fault = none ∧ t = raise r (s.setInbox es)) := by
  unfold step at h
  split at h
  · next a es hi =>
    unfold hostAccess at h
    split at h
    · next i hd =>
      split_ifs at h with hw
      · exact .inr (.inr (.inl ⟨a, i, es, hi, hd, hw, h⟩))
      · obtain ⟨hf, r, ht⟩ := refuseAccess_next h
        exact .inr (.inr (.inr ⟨a, es, r, hi, hf, ht⟩))
    · obtain ⟨hf, r, ht⟩ := refuseAccess_next h
      exact .inr (.inr (.inr ⟨a, es, r, hi, hf, ht⟩))
  · next left es hi => cases h; exact .inl ⟨left, es, hi, rfl⟩
  · next es hi =>
    obtain ⟨hf, h⟩ := unlessFaulted_next h
    cases h; exact .inr (.inl ⟨es, hf, .inl hi, rfl⟩)
  · next hi =>
    obtain ⟨hf, h⟩ := unlessFaulted_next h
    cases h
    refine .inr (.inl ⟨[], hf, .inr ⟨hi, rfl⟩, ?_⟩)
    rw [show s.setInbox [] = s by unfold State.setInbox; rw [← hi]]

end Sys2Proof.Machine
end

