-- ==== Sys2Proof/Tests/Slice0.lean ====
section
/-!
SUPPORT. The model's own tests, each expected value taken from spec/95_test_vectors.md or worked out from a rule, and for each
statement with hypotheses a witness that meets them.
-/
namespace Sys2Proof.Tests

open Sys2Proof Sys2Proof.Machine

/-! ## Helpers -/

/-- A receive that completes once these bytes have arrived. -/
def ok (bs : List Byte) : RxDraw := .answer { arrived := bs, inTime := true, lost := 0 }

/-- A receive that times out and loses `j` bytes of what arrived. -/
def late (bs : List Byte) (j : Nat) : RxDraw := .answer { arrived := bs, inTime := false, lost := j }

/-- The start state of 95_test_vectors.md L2.5: bound, idle, results left by earlier commands. -/
def ready (tx : List TxDraw) (rx : List RxDraw) : State :=
  { State.reset with
    block := { Block.reset with
      bound := true, ep := some 1, code := some 3, resFine := some 0x1111, resCoarse := some 0x2222, resCoeff := some 0x33 }
    link := { Link.quiet with txDraws := tx, rxDraws := rx } }

/-- The same with a command in progress. -/
def busy : State :=
  let s := ready [] []
  { s with block := { s.block with busy := true, phase := .rxHdr, curOp := some 0x01, curArg := some 0 } }

def nextOf (o : Host.Outcome State Fault Refusal) : Option State :=
  match o with
  | .next s => some s
  | .fault _ => none
  | .refused _ => none

/-- CODE, RES_FINE, RES_COARSE and RES_COEFF after an operation. -/
def results (o : Host.Outcome State Fault Refusal) : Option (Option (BitVec 3) × Option Half × Option Half × Option Byte) :=
  (nextOf o).map fun t => (t.block.code, t.block.resFine, t.block.resCoarse, t.block.resCoeff)

/-- The link calls made, and whether the block is busy. -/
def calls (o : Host.Outcome State Fault Refusal) : Option (List LinkCall × Bool) :=
  (nextOf o).map fun t => (t.link.log, t.block.busy)

/-- The fault mark after an access. -/
def mark (o : Host.Outcome State Fault Refusal) : Option (Option Fault) := (nextOf o).map fun t => t.block.fault

/-- The value a read returned. -/
def readBack (o : Host.Outcome State Fault Refusal) : Option (Option (ReadReg × Half)) := (nextOf o).map fun t => t.port.rdata

/-! ## WellFormed -/

/-- Rule R27: an endpoint identifier has `EP_WIDTH` bits. -/
theorem test_wellFormed_refuses_wide_endpoint :
    Instr.wellFormed { epWidth := 8, linkRetainsUnread := true, rxBufCap := 260 } (.bind 256) = false := by decide

theorem test_wellFormed_takes_widest_endpoint :
    Instr.wellFormed { epWidth := 8, linkRetainsUnread := true, rxBufCap := 260 } (.bind 255) = true := by decide

/-- Rule R7: `RX_BUF_CAP` is 8 to 260. -/
theorem test_params_wf_bounds :
    ¬ Params.wf { epWidth := 8, linkRetainsUnread := true, rxBufCap := 7 } ∧
    ¬ Params.wf { epWidth := 8, linkRetainsUnread := true, rxBufCap := 261 } ∧
    Params.wf { epWidth := 8, linkRetainsUnread := true, rxBufCap := 8 } := by decide

/-! ## Decoding: one word per constructor, ARG in bits 15:8 and OPC in bits 7:0 (rules R19 and R71) -/

theorem test_decode_startMeas : decode (.write 0 0b1111111100000001) = .ok (.startMeas 0xFF) := rfl
theorem test_decode_stopMeas : decode (.write 0 0b0000000000000010) = .ok (.stopMeas 0x00) := rfl
theorem test_decode_readResults : decode (.write 0 0b0000000000000100) = .ok (.readResults 0x00) := rfl
theorem test_decode_setCoeff : decode (.write 0 0b0110010000001000) = .ok (.setCoeff 100) := rfl
theorem test_decode_readCoeff : decode (.write 0 0b0000000100010000) = .ok (.readCoeff 0x01) := rfl
theorem test_decode_stopAutoSend : decode (.write 0 0b0000000000100000) = .ok (.stopAutoSend 0x00) := rfl
theorem test_decode_enableAutoSend : decode (.write 0 0b1000000001000000) = .ok (.enableAutoSend 0x80) := rfl
theorem test_decode_bind : decode (.write 5 3) = .ok (.bind 3) := rfl
theorem test_decode_rd : decode (.read 4) = .ok (.rd .resCoeff) := rfl
/-- L2.6: the opcode is taken from bits 7:0 only. -/
theorem test_decode_swapped_fields_refused : decode (.write 0 0x0800) = .error .illegalOpcode := rfl
theorem test_decode_0x80_refused : decode (.write 0 0x0080) = .error .illegalOpcode := rfl
theorem test_decode_read_cmd_refused : decode (.read 0) = .error .illegalAccess := rfl
theorem test_decode_write_code_refused : decode (.write 6 0) = .error .illegalAccess := rfl
theorem test_decode_register_7_refused : decode (.read 7) = .error .illegalAccess := rfl
theorem test_decode_wide_cmd_refused : decode (.write 0 0x10001) = .error .valueTooWide := rfl
theorem test_decodeTableWord : decodeTableWord 16 0x6408 = some (.setCoeff 100) := rfl
theorem test_decodeTableWord_bind : decodeTableWord 8 3 = some (.bind 3) := rfl

/-! ## Checksum (L2.1) -/

theorem test_checksum_corners :
    checksum [] = 0x00 ∧ checksum [0x01] = 0xFF ∧ checksum [0x80] = 0x80 ∧ checksum [0xFF] = 0x01 ∧
    checksum [0x68, 0x01, 0x10] = 0x87 ∧ checksum [0x68, 0x02, 0x08, 0x8E] = 0x00 ∧
    checksum [0x40, 0x05, 0x04, 0xFF, 0xFF, 0xFF, 0xFF] = 0xBB := by decide

/-- L2.1, last row: a sum above 65536. -/
theorem test_checksum_259_ff : checksum (List.replicate 259 0xFF) = 0x03 := by decide +kernel

/-! ## Encoder (L2.2) -/

theorem test_buildFrame_any_opcode :
    (buildFrame 0x03 0 none State.reset).2.txFrame = [0x68, 0x01, 0x03, 0x94] ∧
    (buildFrame 0x03 0 none State.reset).2.block.txLen = some 4 := by decide
theorem test_buildFrame_empty_present : (buildFrame 0x02 0 (some []) State.reset).2.txFrame = [0x68, 0x01, 0x02, 0x95] := by decide
theorem test_buildFrame_absent_payload : (buildFrame 0x08 1 none State.reset).1 = .badArgument := by decide
/-- L2.2: the largest frame has LEN = FF and checksum 98. -/
theorem test_frameBytes_largest :
    (frameBytes 0x01 254 (some (List.replicate 254 0x00))).length = 258 ∧
    (frameBytes 0x01 254 (some (List.replicate 254 0x00)))[1]? = some 0xFF ∧
    (frameBytes 0x01 254 (some (List.replicate 254 0x00))).getLast? = some 0x98 := by decide +kernel

/-! ## Commands (L2.5) -/

/-- START_MEAS with ARG = 0xFF: ARG is ignored. -/
theorem test_startMeas_ok :
    results (exec (.startMeas 0xFF) (ready [.sent 4] [ok [0xA5, 0xA5]])) = some (some 0, some 0x1111, some 0x2222, some 0x33) ∧
    calls (exec (.startMeas 0xFF) (ready [.sent 4] [ok [0xA5, 0xA5]])) =
      some ([.txSend (some 1) [0x68, 0x01, 0x01, 0x96] 4, .rxOk (some 1) [0xA5, 0xA5]], false) := by decide
theorem test_stopMeas_negative :
    results (exec (.stopMeas 0) (ready [.sent 4] [ok [0x96, 0x96]])) = some (some 2, some 0x1111, some 0x2222, some 0x33) := by decide
theorem test_stopMeas_mixed_pair :
    results (exec (.stopMeas 0) (ready [.sent 4] [ok [0xA5, 0x96]])) = some (some 3, some 0x1111, some 0x2222, some 0x33) := by decide
/-- L1.9: SET_COEFF 100 sends `68 02 08 64 2A`; RES_COEFF is not written. -/
theorem test_setCoeff_ok :
    results (exec (.setCoeff 100) (ready [.sent 5] [ok [0xA5, 0xA5]])) = some (some 0, some 0x1111, some 0x2222, some 0x33) ∧
    calls (exec (.setCoeff 100) (ready [.sent 5] [ok [0xA5, 0xA5]])) =
      some ([.txSend (some 1) [0x68, 0x02, 0x08, 0x64, 0x2A] 5, .rxOk (some 1) [0xA5, 0xA5]], false) := by decide
theorem test_setCoeff_short_send :
    results (exec (.setCoeff 100) (ready [.sent 3] [ok [0xA5, 0xA5]])) = some (some 5, some 0x1111, some 0x2222, some 0x33) ∧
    calls (exec (.setCoeff 100) (ready [.sent 3] [ok [0xA5, 0xA5]])) =
      some ([.txSend (some 1) [0x68, 0x02, 0x08, 0x64, 0x2A] 3], false) := by decide
/-- L2.5: RES_FINE = 0x1234, RES_COARSE = 0xABCD. -/
theorem test_readResults_ok :
    results (exec (.readResults 0)
      (ready [.sent 4] [ok [0x40, 0x05], ok [0x04, 0x12, 0x34, 0xAB, 0xCD, 0xF9]])) =
    some (some 0, some 0x1234, some 0xABCD, some 0x33) := by decide
/-- L2.5: echo 0x10 with a matching checksum. -/
theorem test_readResults_wrong_echo :
    results (exec (.readResults 0)
      (ready [.sent 4] [ok [0x40, 0x05], ok [0x10, 0x00, 0x2A, 0x00, 0x1E, 0x63]])) =
    some (some 3, some 0x1111, some 0x2222, some 0x33) := by decide
theorem test_readCoeff_ok :
    results (exec (.readCoeff 0) (ready [.sent 4] [ok [0x40, 0x02], ok [0x10, 0x64, 0x4A]])) =
    some (some 0, some 0x1111, some 0x2222, some 100) := by decide
/-- L2.5: a wrong echo and a wrong checksum give BAD_CHECKSUM. -/
theorem test_readCoeff_checksum_first :
    results (exec (.readCoeff 0) (ready [.sent 4] [ok [0x40, 0x02], ok [0x04, 0x37, 0x00]])) =
    some (some 4, some 0x1111, some 0x2222, some 0x33) := by decide
theorem test_stopAutoSend_ok :
    calls (exec (.stopAutoSend 0) (ready [.sent 4] [ok [0xA5, 0xA5]])) =
      some ([.txSend (some 1) [0x68, 0x01, 0x20, 0x77] 4, .rxOk (some 1) [0xA5, 0xA5]], false) := by decide
/-- Rule R122: a measurement frame where an ack was expected. -/
theorem test_enableAutoSend_complex_header :
    results (exec (.enableAutoSend 0) (ready [.sent 4] [ok [0x40, 0x05]])) =
    some (some 3, some 0x1111, some 0x2222, some 0x33) := by decide
/-- L2.5: the bound check leaves the body unread (rule R47). -/
theorem test_readResults_oversize_leaves_body_unread :
    (nextOf (exec (.readResults 0) (ready [.sent 4] [ok [0x40, 0x06, 0x04, 0x01]]))).map (fun t => (t.block.code, t.unread)) =
    some (some 3, [0x04, 0x01]) := by decide
/-- Rule R43: a timeout loses the drawn bytes. -/
theorem test_timeout_loses_bytes :
    (nextOf (exec (.stopMeas 0) (ready [.sent 4] [late [0xA5] 1]))).map (fun t => (t.block.code, t.unread)) =
    some (some 3, []) := by decide

/-! ## Waiting, and host accesses meanwhile (L2.6) -/

theorem test_pending_send_waits_in_tx :
    (nextOf (exec (.startMeas 0) (ready [.pending] []))).map (fun t => (t.block.busy, t.block.phase, t.block.code)) =
    some (true, .tx, some 3) := by decide
theorem test_resumed_receive_completes :
    ((nextOf (exec (.startMeas 0) (ready [.sent 4] [.pending, ok [0xA5, 0xA5]]))).bind fun t => nextOf (step t)).map
      (fun t => (t.block.busy, t.block.code)) = some (false, some 0) := by decide
theorem test_rd_stat_busy : readBack (exec (.rd .stat) busy) = some (some (.stat, 0x03)) := by decide
theorem test_rd_code_busy : mark (exec (.rd .code) busy) = some (some .busyAccess) := by decide
theorem test_rd_code_idle : readBack (exec (.rd .code) (ready [] [])) = some (some (.code, 3)) := by decide
theorem test_rd_unwritten : mark (exec (.rd .resFine) State.reset) = some (some .unwrittenRead) := by decide
theorem test_bind_from_reset :
    (nextOf (exec (.bind 3) State.reset)).map (fun t => (t.block.bound, t.block.ep, t.block.code)) = some (true, some 3, none) := by
  decide
theorem test_bind_busy : (nextOf (exec (.bind 7) busy)).map (fun t => (t.block.fault, t.block.ep)) =
    some (some .busyAccess, some 1) := by decide
theorem test_unbound_command : mark (step (State.reset.withFetchWord 16 0x0001)) = some (some .unbound) := by decide
/-- Rule R135: ILLEGAL_OPCODE is checked before UNBOUND. -/
theorem test_illegal_opcode_before_unbound :
    mark (step (State.reset.setInbox [.access (.write 0 0x0003)])) = some (some .illegalOpcode) := by decide
theorem test_illegal_opcode_after_busy :
    mark (step (busy.setInbox [.access (.write 0 0x0003)])) = some (some .busyAccess) := by decide
theorem test_sticky_fault : nextOf (step ((raise .unbound State.reset).setInbox [.access (.read 1)])) = none := by decide
/-- L2.7: reset clears the fault mark and the binding. -/
theorem test_reset_clears_fault :
    (nextOf (step ((raise .unbound (ready [] [])).setInbox [.reset []]))).map (fun t => t.block) = some Block.reset := by decide
/-- Rule R145: a reset in PHASE = TX cuts the send off. -/
theorem test_reset_during_send :
    ((nextOf (exec (.startMeas 0) (ready [.pending] []))).bind fun t => nextOf (step (t.setInbox [.reset [0x40]]))).map
      (fun t => (t.block.code, t.link.log, t.link.unread.get 1)) =
    some (none, [.txCut (some 1) [0x68, 0x01, 0x01, 0x96]], [0x40]) := by decide

/-! ## Witnesses: the hypotheses of the statements can be met -/

/-- L2.5's start state meets the invariant. -/
theorem ready_inv (tx : List TxDraw) (rx : List RxDraw) : Inv (ready tx rx) := by
  refine ⟨⟨?_, ?_, ?_, ?_, ?_, ?_, ?_⟩, ⟨?_, ?_, ?_, ?_⟩, ⟨?_, ?_, ?_, ?_, ?_, ?_⟩⟩ <;>
    simp [ready, State.reset, State.resetWith, Params.standard, Params.wf, Streams.wf, Block.reset, Link.quiet]

theorem busy_inv : Inv busy := by
  refine ⟨⟨?_, ?_, ?_, ?_, ?_, ?_, ?_⟩, ⟨?_, ?_, ?_, ?_⟩, ⟨?_, ?_, ?_, ?_, ?_, ?_⟩⟩ <;>
    simp [busy, ready, State.reset, State.resetWith, Params.standard, Params.wf, Streams.wf, Block.reset, Link.quiet,
      commandOpcodes]

theorem ready_sendsWhole (opc arg : Byte) (ts : List TxDraw) (rx : List RxDraw) (h : (frameOf opc arg).length ≤ 5) :
    SendsWhole (ready (.sent 5 :: ts) rx) opc arg ts :=
  ⟨ready_inv _ _, ⟨rfl, rfl, rfl⟩, 5, h, rfl⟩

theorem witness_EncodeOfDecodeIsTheAccess : decode (.write 5 0) = .ok (.bind 0) ∧ decode (.read 6) = .ok (.rd .code) := ⟨rfl, rfl⟩
theorem witness_OnlyTheSevenOpcodesDecode : cmdOpc 0x0003 ∉ commandOpcodes ∧ cmdOpc 0xFF40 ∈ commandOpcodes := by decide
theorem witness_ChecksumDetectsOneChangedByte : (0x2A : Byte) ≠ 0x2B ∧ List.Perm [(0x2A : Byte), 0] [0, 0x2A] := by decide
theorem witness_BuildFrameBuildsTheFrame :
    State.reset.block.txBuf.wf ∧ (List.replicate 254 (0xFF : Byte)).length ≤ 254 ∧ ([] : List Byte).length ≤ 254 :=
  ⟨List.Pairwise.nil, le_of_eq List.length_replicate, Nat.zero_le _⟩
theorem witness_BuildFrameRefusesBadArguments : 0 < 1 ∧ 254 < 255 := by decide
theorem witness_SendFrameBadArgumentSendsNothing :
    ((none : Option (List Byte)) = none ∧ 0 < 1 ∨ 254 < 1) ∧ (some (List.replicate 255 (0 : Byte)) = none ∧ 0 < 255 ∨ 254 < 255) := by
  decide
theorem witness_TxSendReportsACount : (ready [.sent 4] []).link.txDraws = .sent 4 :: [] := rfl
theorem witness_RxRecvIsAllOrNothing :
    StoreInv (ready [] [ok [1, 2]]) ∧ (ready [] [ok [1, 2]]).block.ep ≠ none ∧ 0 < 2 ∧
    (true = true ∧ 2 ≤ ((ready [] [ok [1, 2]]).unread ++ [1, 2]).length) ∧
    ¬ (true = true ∧ 2 ≤ ((ready [] [ok [1]]).unread ++ [1]).length) ∧
    ¬ (false = true ∧ 2 ≤ ((ready [] [late [1, 2] 1]).unread ++ [1, 2]).length) :=
  ⟨(ready_inv _ _).store, by decide⟩
theorem witness_DiscardedBytesAreNotSeen :
    ∃ s : State, StoreInv s ∧ s.block.ep = some 1 ∧ s.params.linkRetainsUnread = false ∧ s.unread = [9] := by
  refine ⟨{ ready [] [] with
      params := { epWidth := 8, linkRetainsUnread := false, rxBufCap := 260 }
      link := { Link.quiet with unread := [(1, [9])] } }, ⟨?_, ?_, ?_, ?_, ?_, ?_⟩, rfl, rfl, rfl⟩ <;>
    simp [ready, Block.reset, Streams.wf, Params.wf]
theorem witness_HeaderCheckIgnoresLargeBuffers : 4 + 4 ≤ 8 ∧ 4 + 4 ≤ 260 := by decide
theorem witness_ComplexAckRoundTrips :
    StoreInv (ready [] [ok [0x40, 0x01], ok [0x10, 0xAF]]) ∧ ([] : List Byte).length ≤ 0 ∧
    firstStream (ready [] [ok [0x40, 0x01], ok [0x10, 0xAF]]) { arrived := [0x40, 0x01], inTime := true, lost := 0 } ++ [0x10, 0xAF] =
      [0x40, BitVec.ofNat 8 (([] : List Byte).length + 1), 0x10] ++ [] ++ [0xAF] ∧
    (0xAF : Byte) = checksum ([0x40, BitVec.ofNat 8 (([] : List Byte).length + 1), 0x10] ++ []) ∧
    (0x00 : Byte) ≠ checksum ([0x40, BitVec.ofNat 8 (([] : List Byte).length + 1), 0x10] ++ []) :=
  ⟨(ready_inv _ _).store, by decide⟩
theorem witness_ComplexAckNeverOverruns : StoreInv (ready [] [ok [0x40, 0xFF]]) := (ready_inv _ _).store
theorem witness_SimpleCommandsComplete :
    SendsWhole (ready [.sent 5] [ok [0xA5, 0xA5]]) 0x08 0xFF [] ∧
    simpleOf (.startMeas 0) = some (0x01, 0) ∧ simpleOf (.stopMeas 0) = some (0x02, 0) ∧ simpleOf (.setCoeff 0xFF) = some (0x08, 0xFF) ∧
    simpleOf (.stopAutoSend 0) = some (0x20, 0) ∧ simpleOf (.enableAutoSend 0) = some (0x40, 0) ∧
    simpleReplyCode (ready [] []) { arrived := [0xA5, 0xA5], inTime := true, lost := 0 } = 0 ∧
    simpleReplyCode (ready [] []) { arrived := [0x96, 0x96, 0], inTime := true, lost := 0 } = 2 ∧
    simpleReplyCode (ready [] []) { arrived := [0xA5, 0xA5], inTime := false, lost := 0 } = 3 ∧
    simpleReplyCode (ready [] []) { arrived := [0xA5], inTime := true, lost := 0 } = 3 :=
  ⟨ready_sendsWhole 0x08 0xFF [] _ (by decide), by decide⟩
theorem witness_ReadResultsCompletes :
    SendsWhole (ready [.sent 5] [ok [0x40, 0x05], ok [0x04, 0x00, 0x2A, 0x00, 0x1E, 0x6F]]) 0x04 0 [] ∧
    firstStream (ready [] []) { arrived := [0x40, 0x05], inTime := true, lost := 0 } ++ [0x04, 0x00, 0x2A, 0x00, 0x1E, 0x6F] =
      [0x40, 0x05, 0x04, 0x00, 0x2A, 0x00, 0x1E, checksum [0x40, 0x05, 0x04, 0x00, 0x2A, 0x00, 0x1E]] ++ [] :=
  ⟨ready_sendsWhole 0x04 0 [] _ (by decide), by decide⟩
theorem witness_ReadCoeffCompletes :
    SendsWhole (ready [.sent 5] [ok [0x40, 0x02], ok [0x10, 0x37, 0x77]]) 0x10 0 [] ∧
    firstStream (ready [] []) { arrived := [0x40, 0x02], inTime := true, lost := 0 } ++ [0x10, 0x37, 0x77] =
      [0x40, 0x02, 0x10, 0x37, checksum [0x40, 0x02, 0x10, 0x37]] ++ [] :=
  ⟨ready_sendsWhole 0x10 0 [] _ (by decide), by decide⟩
/-- Every clause of the header statement, with L = 0 and L = cap + 2 (READ_RESULTS, cap = 4). -/
theorem witness_DataCommandsEndOnTheHeader :
    SendsWhole (ready [.sent 5] [ok [0x40, 0x06]]) 0x04 0 [] ∧ dataOf (.readResults 0) = some (0x04, 0, 4) ∧
    dataOf (.readCoeff 0) = some (0x10, 0, 1) ∧
    firstStream (ready [] []) { arrived := [0x40, 0x06], inTime := true, lost := 0 } = 0x40 :: 0x06 :: [] ∧
    4 + 1 < (0x06 : Byte).toNat ∧ ((0x40 : Byte) ≠ 0x40 ∨ (0x00 : Byte) = 0) ∧ ((0x41 : Byte) ≠ 0x40) ∧
    ¬ (false = true ∧ 2 ≤ (firstStream (ready [] []) { arrived := [], inTime := false, lost := 0 }).length) :=
  ⟨ready_sendsWhole 0x04 0 [] _ (by decide), by decide⟩
/-- Every clause of the body statement, with L = 1 and L = cap + 1 (READ_COEFF, cap = 1). -/
theorem witness_DataCommandsEndOnTheBody :
    SendsWhole (ready [.sent 5] [ok [0x40, 0x02], ok [0x10, 0x38, 0x77]]) 0x10 0 [] ∧
    firstStream (ready [] []) { arrived := [0x40, 0x02], inTime := true, lost := 0 } = 0x40 :: 0x02 :: [] ∧
    1 ≤ (0x02 : Byte).toNat ∧ (0x02 : Byte).toNat ≤ 1 + 1 ∧
    ([] ++ [0x10, 0x38, 0x77] : List Byte) = 0x10 :: [0x38] ++ 0x77 :: [] ∧ (0x77 : Byte) ≠ checksum (0x40 :: 0x02 :: 0x10 :: [0x38]) ∧
    (0x83 : Byte) = checksum (0x40 :: 0x02 :: 0x04 :: [0x37]) ∧ (0x04 : Byte) ≠ 0x10 ∧
    (0xAF : Byte) = checksum (0x40 :: 0x01 :: 0x10 :: []) ∧ ([] : List Byte).length ≠ 1 ∧
    ¬ (true = true ∧ (0x02 : Byte).toNat + 1 ≤ ([] ++ [0x10, 0x38] : List Byte).length) :=
  ⟨ready_sendsWhole 0x10 0 [] _ (by decide), by decide⟩
theorem witness_ShortSendEndsTheCommand :
    Inv (ready [.sent 3] []) ∧ Ready (ready [.sent 3] []) ∧ commandOf (.readCoeff 0) = some (0x10, 0) ∧
    3 < (frameOf 0x10 0).length :=
  ⟨ready_inv _ _, by decide⟩
theorem witness_UnansweredSendWaitsInTx :
    Inv (ready [.pending] []) ∧ Ready (ready [.pending] []) ∧ (ready [.pending] []).link.txDraws = .pending :: [] :=
  ⟨ready_inv _ _, by decide⟩
theorem witness_CommandsFaultWhenNotReady :
    busy.block.fault = none ∧ busy.block.busy = true ∧ State.reset.block.fault = none ∧ State.reset.block.busy = false ∧
    State.reset.block.bound = false := by decide
theorem witness_RdReturnsTheRegister :
    (ready [] []).block.fault = none ∧ (ready [] []).block.busy = false ∧ (ready [] []).block.resFine = some 0x1111 ∧
    (ready [] []).block.resCoarse = some 0x2222 ∧ (ready [] []).block.resCoeff = some 0x33 ∧ (ready [] []).block.code = some 3 := by
  decide
theorem witness_RdFaultsWhileBusyOrUnwritten :
    busy.block.busy = true ∧ State.reset.block.busy = false ∧ State.reset.block.resFine = none ∧ State.reset.block.code = none ∧
    State.reset.block.resCoarse = none ∧ State.reset.block.resCoeff = none := by decide
theorem witness_RefusedAccessesFault :
    (busy.setInbox [.access (.read 5)]).port.inbox = [.access (.read 5)] ∧ 5 ∉ [1, 2, 3, 4, 6] ∧ (1 ≠ 0 ∧ 1 ≠ 5) ∧
    cmdOpc 0x0000 ∉ commandOpcodes := by decide
theorem witness_OperationsFrame : nextOf (exec (.bind 3) State.reset) ≠ none ∧ nextOf (exec (.rd .stat) busy) ≠ none ∧
    nextOf (exec (.startMeas 0) (ready [.sent 4] [ok [0xA5, 0xA5]])) ≠ none ∧
    mark (exec (.rd .resFine) State.reset) = some (some .unwrittenRead) ∧
    (nextOf (exec (.startMeas 0) (ready [.pending] []))).map (fun t => t.block.busy) = some true := by decide
theorem witness_ResultsChangeOnlyOnOk :
    (nextOf (exec (.readCoeff 0) (ready [.sent 3] []))).map (fun t => t.block.code) = some (some 5) ∧
    (nextOf (exec (.readCoeff 0) (ready [.pending] []))).map (fun t => t.block.busy) = some true := by decide
theorem witness_CommandsWriteInsideTheirBuffers : commandOf (.setCoeff 1) = some (0x08, 1) ∧ simpleOf (.setCoeff 1) = some (0x08, 1) ∧
    dataOf (.readResults 1) = some (0x04, 1, 4) ∧ nextOf (exec (.setCoeff 1) (ready [.sent 3] [])) ≠ none ∧
    nextOf (exec (.readResults 1) (ready [.sent 4] [ok [0x40, 0x06]])) ≠ none := by decide
theorem witness_OtherEndpointsAreUntouched : Inv (ready [.sent 4] [ok [0xA5, 0xA5]]) ∧
    (ready [.sent 4] [ok [0xA5, 0xA5]]).block.ep ≠ some 2 ∧
    nextOf (exec (.startMeas 0) (ready [.sent 4] [ok [0xA5, 0xA5]])) ≠ none := ⟨ready_inv _ _, by decide⟩
theorem witness_CommandsEndWithTheirStatuses : Ready (ready [.sent 3] []) ∧
    (nextOf (exec (.readCoeff 0) (ready [.sent 3] []))).map (fun t => t.block.busy) = some false := by decide
theorem witness_PollingStatIsSafe : busy.block.fault = none ∧
    (∀ e ∈ (busy.setInbox [.wait, .access (.read 1)]).port.inbox, e = .wait ∨ e = .access (.read 1)) := by decide
theorem witness_CommandFramesAreTheTable : (0x08 : Byte) ∈ commandOpcodes := by decide
theorem witness_BindBindsTheEndpoint : State.reset.block.fault = none ∧ State.reset.block.busy = false ∧
    busy.block.fault = none ∧ busy.block.busy = true := by decide
theorem witness_CommandsMakeOneAttempt : Inv (ready [.sent 3] []) ∧ Ready (ready [.sent 3] []) ∧
    nextOf (exec (.readCoeff 0) (ready [.sent 3] [])) ≠ none := ⟨ready_inv _ _, by decide⟩
theorem witness_RecordedFaultStops : (raise .unbound State.reset).block.fault = some .unbound ∧
    (raise .unbound State.reset).port.inbox = [] := by decide
theorem witness_ResetEventResets : (busy.setInbox [.reset [1]]).port.inbox = [.reset [1]] ∧ busy.block.busy = true ∧
    busy.block.ep = some 1 ∧ busy.link.unread.wf ∧ (ready [] []).block.busy = false :=
  ⟨rfl, rfl, rfl, busy_inv.store.streams, rfl⟩
theorem witness_StepRunsTheDecodedOperation : decode (.write 5 255) = .ok (.bind 255) ∧
    Instr.wellFormed State.reset.params (.bind 255) = true ∧ decodeTableWord 16 0x0001 = some (.startMeas 0) := ⟨rfl, by decide, rfl⟩
theorem witness_IdleBlockWaits : State.reset.port.inbox = [] ∧ State.reset.block.fault = none ∧ State.reset.block.busy = false := by
  decide
theorem witness_ResetMeetsTheInvariant : Params.standard.wf := by decide
theorem witness_EveryStepKeepsTheInvariant : Inv busy ∧ nextOf (step (busy.setInbox [.access (.read 1)])) ≠ none :=
  ⟨busy_inv, by decide⟩
theorem witness_NoStepEndsWithBadArgument : Inv (ready [] []) ∧ (ready [] []).block.code ≠ some 1 ∧
    nextOf (step ((ready [.sent 3] []).setInbox [.access (.write 0 0x0010)])) ≠ none := ⟨ready_inv _ _, by decide⟩
theorem witness_TransientStateCarriesNothing :
    ∃ s s' : State, Inv s ∧ Inv s' ∧ s ≠ s' ∧ s.block.busy = false ∧ SameSurvivors s s' ∧ nextOf (exec (.readCoeff 0) s) ≠ none := by
  refine ⟨ready [.sent 3] [], (ready [.sent 3] []).storeRx 0 [1], ready_inv _ _, ?_, by decide, rfl,
    ⟨rfl, rfl, rfl, ⟨rfl, rfl, rfl⟩, rfl, rfl, rfl, rfl, rfl, rfl⟩, by decide⟩
  have h := ready_inv [.sent 3] []
  refine ⟨⟨h.reg.1, h.reg.2, h.reg.3, h.reg.4, h.reg.5, h.reg.6, h.reg.7⟩, ⟨h.op.1, h.op.2, ?_, h.op.4⟩,
    ⟨h.store.1, h.store.2, Buffer.writeAll_wf h.store.3 _ _, ?_, h.store.5, h.store.6⟩⟩
  · simp [ready, State.reset, State.resetWith, Block.reset]
  · exact Buffer.writeAll_below h.store.4 (by decide)
/-- A READ_COEFF that completes in two receives. -/
def coeffReady : State := ready [.sent 4] [ok [0x40, 0x02], ok [0x10, 0x37, 0x77]]
theorem witness_WaitingDoesNotChangeTheExchange : commandOf (.readCoeff 0) = some (0x10, 0) ∧ dataOf (.readCoeff 0) = some (0x10, 0, 1) ∧
    Inv coeffReady ∧ Ready coeffReady ∧ (frameOf 0x10 0).length ≤ 4 ∧
    firstStream coeffReady { arrived := [0x40, 0x02], inTime := true, lost := 0 } = [0x40, 0x02] ∧
    1 ≤ (0x02 : Byte).toNat ∧ (0x02 : Byte).toNat ≤ 1 + 1 ∧ nextOf (exec (.readCoeff 0) coeffReady) ≠ none :=
  ⟨rfl, rfl, ready_inv _ _, by decide, by decide, rfl, by decide, by decide, by decide⟩

/-- A READ_COEFF that waits in RX_BODY: the header has come, the second receive has not ended. -/
def waitingBody : State :=
  match exec (.readCoeff 0) (ready [.sent 4] [ok [0x40, 0x02], .pending, ok [0x10, 0x37, 0x77]]) with
  | .next t => t
  | .fault _ => State.reset
  | .refused _ => State.reset
/-- Rule R120 from RX_BODY: the body `10 37 77` ends the command with OK and RES_COEFF = 0x37, with a wrong echo BAD_RESPONSE. -/
theorem test_resumed_body_completes : waitingBody.block.phase = .rxBody ∧
    results (step waitingBody) = some (some 0, some 0x1111, some 0x2222, some 0x37) ∧
    results (step (waitingBody.setLink { waitingBody.link with rxDraws := [ok [0x11, 0x37, 0x76]] })) =
      some (some 3, some 0x1111, some 0x2222, some 0x33) := by decide
theorem witness_EngineMovesFrame : EngineMove waitingBody (resume waitingBody) ∧ (resume waitingBody).block.code = some 0 :=
  ⟨⟨.inl (by decide), by rfl⟩, by decide⟩
theorem witness_EngineMove_forms :
    EngineMove busy (resume busy) ∧ EngineMove (busy.setInbox [.wait]) (resume (busy.setInbox [])) :=
  ⟨⟨.inl rfl, rfl⟩, ⟨.inr ⟨_, rfl⟩, rfl⟩⟩
/-- A START_MEAS that waits in TX. -/
def waitingSend : State :=
  match exec (.startMeas 0) (ready [.pending] []) with
  | .next t => t
  | .fault _ => State.reset
  | .refused _ => State.reset
theorem waitingBody_inv : Inv waitingBody := by
  refine ⟨⟨by decide, by decide, by decide, by decide, ?_, ?_, by decide⟩,
    ⟨fun _ => ⟨by decide, 0x10, 0, by decide⟩, fun h => absurd h (by decide),
      fun _ => ⟨0x10, 1, 0x02, by decide⟩, fun p h => ?_⟩,
    ⟨by decide, by decide, by decide, by decide, by decide, by decide⟩⟩
  · intro e h
    cases (show some 1 = some e from h)
    decide
  · intro c h
    cases (show some 3 = some c from h)
    decide
  · cases (show (none : Option (List Byte)) = some p from h)
theorem waitingSend_inv : Inv waitingSend := by
  refine ⟨⟨by decide, by decide, by decide, by decide, ?_, ?_, by decide⟩,
    ⟨fun _ => ⟨by decide, 0x01, 0, by decide⟩, fun _ opc arg h1 h2 => ?_,
      fun h => absurd h (by decide), fun p h => ?_⟩,
    ⟨by decide, by decide, by decide, by decide, by decide, by decide⟩⟩
  · intro e h
    cases (show some 1 = some e from h)
    decide
  · intro c h
    cases (show some 3 = some c from h)
    decide
  · cases (show some (0x01 : Byte) = some opc from h1)
    cases (show some (0 : Byte) = some arg from h2)
    decide
  · cases (show (none : Option (List Byte)) = some p from h)
/-- The clauses about later moves of CommandsWriteInsideTheirBuffers, OtherEndpointsAreUntouched, CommandsMakeOneAttempt and
CommandsEndWithTheirStatuses. -/
theorem witness_laterMoves :
    (Inv waitingBody ∧ waitingBody.block.busy = true ∧ waitingBody.block.curOp = some 0x10 ∧ waitingBody.block.curArg = some 0 ∧
      EngineMove waitingBody (resume waitingBody) ∧ (resume waitingBody).block.busy = false ∧ dataCapacity 0x10 = some 1) ∧
    (Inv waitingSend ∧ waitingSend.block.busy = true ∧ waitingSend.block.curOp = some 0x01 ∧ waitingSend.block.curArg = some 0 ∧
      EngineMove waitingSend (resume waitingSend) ∧ dataCapacity 0x01 = none) :=
  ⟨⟨waitingBody_inv, by decide, by decide, by decide, ⟨.inl (by decide), by rfl⟩, by decide, by decide⟩,
    ⟨waitingSend_inv, by decide, by decide, by decide, ⟨.inl (by decide), by rfl⟩, by decide⟩⟩
theorem witness_UnansweredCallsChangeNothing :
    (Inv waitingSend ∧ waitingSend.block.phase = .tx ∧ waitingSend.port.inbox = [] ∧ waitingSend.block.fault = none) ∧
    (Inv waitingBody ∧ waitingBody.block.phase = .rxBody ∧ waitingBody.port.inbox = [] ∧ waitingBody.block.fault = none) ∧
    (Inv busy ∧ busy.block.phase = .rxHdr ∧ busy.params.linkRetainsUnread = true ∧ busy.port.inbox = [] ∧ busy.block.fault = none) :=
  ⟨⟨waitingSend_inv, by decide⟩, ⟨waitingBody_inv, by decide⟩, ⟨busy_inv, by decide⟩⟩
theorem witness_RxBufCapIsNotObservable : 8 ≤ busy.params.rxBufCap ∧ 8 ≤ 8 ∧ nextOf (exec (.readCoeff 0) (ready [.sent 3] [])) ≠ none ∧
    nextOf (step busy) ≠ none := by decide
/-- The run assumes LINK_TX_LIVE. -/
def live (s : State) : State := s.setLink { s.link with txLive := true }
theorem inv_setLink_live {s : State} (h : Inv s) : Inv (live s) :=
  ⟨⟨h.reg.1, h.reg.2, h.reg.3, h.reg.4, h.reg.5, h.reg.6, h.reg.7⟩, ⟨h.op.1, h.op.2, h.op.3, h.op.4⟩,
    ⟨h.store.1, h.store.2, h.store.3, h.store.4, h.store.5, h.store.6⟩⟩
theorem witness_CommandsEndUnderLinkTxLive : LinkTxLive (live busy) ∧ Inv (live busy) ∧ (live busy).block.fault = none ∧
    (live busy).block.busy = true ∧ (live busy).port.inbox = [] ∧ LinkTxLive (live (ready [.pending] [])) ∧
    Inv (live (ready [.pending] [])) ∧ Ready (live (ready [.pending] [])) :=
  ⟨linkTxLive_of_assumed rfl, (inv_setLink_live busy_inv), rfl, rfl, rfl, linkTxLive_of_assumed rfl, inv_setLink_live (ready_inv _ _), by decide⟩
theorem witness_CommandsEndWhenTheSendReturns : Inv busy ∧ busy.block.fault = none ∧ busy.block.busy = true ∧
    busy.port.inbox = [] ∧ (busy.block.phase = .tx → SendListed busy) ∧ SendListed (ready [.pending, .sent 4] []) :=
  ⟨busy_inv, rfl, rfl, rfl, fun h => absurd h (by decide), 4, by decide⟩

end Sys2Proof.Tests
end

section
/-!
PROOFS. The register reads and the reset values (10_state.md rules R26, R36 and R37).
-/
namespace Sys2Proof.Machine

open Sys2Proof

/-! ### RD, case by case -/

/-- Rule R36: while busy, every register but STAT answers BUSY_ACCESS, whatever it holds. -/
theorem execRd_of_busy {r : ReadReg} {s : State} (hf : s.block.fault = none) (hb : s.block.busy = true) (hr : r ≠ .stat) :
    execRd r s = .next (raise .busyAccess s) := by
  rw [execRd, unlessFaulted_clear hf, if_pos ⟨hb, hr⟩, takeFault]

/-- Rule R26: while idle, a register that holds no value answers UNWRITTEN_READ. -/
theorem execRd_of_unwritten {r : ReadReg} {s : State} (hf : s.block.fault = none) (hb : s.block.busy = false)
    (hv : heldValue s.block r = none) : execRd r s = .next (raise .unwrittenRead s) := by
  have hidle : ¬ (s.block.busy = true ∧ r ≠ .stat) := fun h => by simp [hb] at h
  rw [execRd, unlessFaulted_clear hf, if_neg hidle, hv]
  rfl

/-- What it is for a register to hold no value: its element of the block is unwritten. STAT always holds one. -/
theorem heldValue_eq_none_iff (b : Block) (r : ReadReg) :
    heldValue b r = none ↔
      (r = .resFine ∧ b.resFine = none ∨ r = .resCoarse ∧ b.resCoarse = none ∨
        r = .resCoeff ∧ b.resCoeff = none ∨ r = .code ∧ b.code = none) := by
  cases r <;> simp [heldValue]

/-! ### The reset values -/

@[simp] theorem resetWith_block (p : Params) : (State.resetWith p).block = Block.reset := rfl

/-- A buffer with no cell holds no byte. -/
@[simp] theorem Buffer.read_nil (i : Nat) : Buffer.read [] i = none := rfl

/-- Rule R20: STAT of an idle, unbound block. -/
theorem statWord_idle_unbound : statWord false false = 0 := by decide

end Sys2Proof.Machine

namespace Sys2Proof.Proofs

open Sys2Proof Sys2Proof.Machine

/-- Settles O30: BUSY_ACCESS comes before UNWRITTEN_READ, and an unwritten register is one that holds no value. -/
theorem rdFaultsWhileBusyOrUnwritten : Obligations.RdFaultsWhileBusyOrUnwritten := by
  intro r s hf hr
  refine ⟨fun hb => execRd_of_busy hf hb hr, fun hb hu => ?_⟩
  exact execRd_of_unwritten hf hb ((heldValue_eq_none_iff s.block r).2 hu)

/-- Settles O40: the parameters do not enter the block's reset state, whose elements are those of rule R37's table. -/
theorem resetValuesAreTheTable : Obligations.ResetValuesAreTheTable := by
  intro p
  rw [resetWith_block]
  exact ⟨rfl, rfl, rfl, rfl, rfl, rfl, rfl, rfl, rfl, rfl, rfl, rfl, rfl, rfl, rfl,
    Buffer.read_nil, Buffer.read_nil, statWord_idle_unbound⟩

end Sys2Proof.Proofs
end

section
/-!
PROOFS. The encoding: the CMD word and its fields, the decoder against the encoder (30_encoding.md rules R65, R67, R68 and R71), and
the registers of 10_state.md rule R17.
-/
namespace Sys2Proof

open Sys2Proof.Machine

/-! ### The fields of the CMD word (rule R19) -/

@[simp] theorem cmdOpc_cmdWord (arg opc : Byte) : cmdOpc (cmdWord arg opc) = opc :=
  BitVec.extractLsb'_append_eq_right

@[simp] theorem cmdArg_cmdWord (arg opc : Byte) : cmdArg (cmdWord arg opc) = arg :=
  BitVec.extractLsb'_append_eq_left

/-- The two fields cover the word: CMD has no reserved bit. -/
@[simp] theorem cmdWord_cmdArg_cmdOpc (w : Half) : cmdWord (cmdArg w) (cmdOpc w) = w :=
  (BitVec.extractLsb'_append_extractLsb'_eq_extractLsb' (x := w) rfl).trans BitVec.extractLsb'_eq_self

/-! ### The command table (rule R65) -/

theorem mem_commandOpcodes_of_commandOf {i : Instr} {opc arg : Byte} (h : commandOf i = some (opc, arg)) :
    opc ∈ commandOpcodes := by
  cases i <;> cases h <;> decide

theorem exists_commandOf {opc : Byte} (h : opc ∈ commandOpcodes) (arg : Byte) : ∃ i, commandOf i = some (opc, arg) := by
  simp only [commandOpcodes, List.mem_cons, List.not_mem_nil, or_false] at h
  rcases h with rfl | rfl | rfl | rfl | rfl | rfl | rfl
  exacts [⟨.startMeas arg, rfl⟩, ⟨.stopMeas arg, rfl⟩, ⟨.readResults arg, rfl⟩, ⟨.setCoeff arg, rfl⟩,
    ⟨.readCoeff arg, rfl⟩, ⟨.stopAutoSend arg, rfl⟩, ⟨.enableAutoSend arg, rfl⟩]

/-- A command's access is a write of its CMD word to register 0 (rule R71). -/
theorem encode_of_commandOf {i : Instr} {opc arg : Byte} (h : commandOf i = some (opc, arg)) :
    encode i = .write 0 (cmdWord arg opc).toNat := by
  cases i <;> cases h <;> rfl

/-! ### Decoding a CMD word (rules R65 and R67) -/

theorem commandOf_of_decodeCmd {w : Half} {i : Instr} (h : decodeCmd w = .ok i) :
    commandOf i = some (cmdOpc w, cmdArg w) := by
  unfold decodeCmd at h
  split_ifs at h <;> cases h <;> simp only [commandOf, *]

theorem decodeCmd_cmdWord {i : Instr} {opc arg : Byte} (h : commandOf i = some (opc, arg)) :
    decodeCmd (cmdWord arg opc) = .ok i := by
  cases i <;> cases h <;> simp [decodeCmd]

/-- A CMD word decodes to the one command that has its OPC as opcode and its ARG as argument byte. -/
theorem decodeCmd_eq_ok_iff (w : Half) (i : Instr) :
    decodeCmd w = .ok i ↔ commandOf i = some (cmdOpc w, cmdArg w) := by
  refine ⟨commandOf_of_decodeCmd, fun h => ?_⟩
  simpa using decodeCmd_cmdWord h

theorem decodeCmd_of_illegal {w : Half} (h : cmdOpc w ∉ commandOpcodes) : decodeCmd w = .error .illegalOpcode := by
  cases hd : decodeCmd w with
  | ok i => exact absurd (mem_commandOpcodes_of_commandOf (commandOf_of_decodeCmd hd)) h
  | error e =>
    unfold decodeCmd at hd
    split_ifs at hd
    exact hd.symm

/-! ### The readable registers (rule R17) -/

@[simp] theorem readRegOf_regNumber (r : ReadReg) : readRegOf (regNumber r) = some r := by cases r <;> rfl

theorem regNumber_of_readRegOf {n : Nat} {r : ReadReg} (h : readRegOf n = some r) : regNumber r = n := by
  unfold readRegOf at h
  split_ifs at h <;> cases h <;> simp only [regNumber, *]

theorem readRegOf_eq_none {n : Nat} (h : n ∉ [1, 2, 3, 4, 6]) : readRegOf n = none := by
  cases hr : readRegOf n with
  | none => rfl
  | some r =>
    have hn : regNumber r ∈ [1, 2, 3, 4, 6] := by cases r <;> decide
    exact absurd (regNumber_of_readRegOf hr ▸ hn) h

/-! ### Decoding a host access (rules R17, R67 and R71) -/

@[simp] theorem decode_writeCmd (w : Half) : decode (.write 0 w.toNat) = decodeCmd w := by
  rw [decode, if_pos rfl, if_pos w.isLt, BitVec.ofNat_toNat, BitVec.setWidth_eq]

@[simp] theorem decode_writeBind (ep : Nat) : decode (.write 5 ep) = .ok (.bind ep) := rfl

theorem decode_read {n : Nat} {r : ReadReg} (h : readRegOf n = some r) : decode (.read n) = .ok (.rd r) := by
  simp only [decode, h]

theorem decode_read_of_unreadable {n : Nat} (h : n ∉ [1, 2, 3, 4, 6]) : decode (.read n) = .error .illegalAccess := by
  simp only [decode, readRegOf_eq_none h]

theorem decode_write_of_unwritable {reg : Nat} (v : Nat) (h0 : reg ≠ 0) (h5 : reg ≠ 5) :
    decode (.write reg v) = .error .illegalAccess := by
  rw [decode, if_neg h0, if_neg h5]

/-- The accesses that are operations: a CMD write of a 16-bit word that decodes, a BIND write, a read of a readable register. -/
theorem decode_eq_ok {a : HostAccess} {i : Instr} (h : decode a = .ok i) :
    (∃ w : Half, a = .write 0 w.toNat ∧ decodeCmd w = .ok i) ∨ (∃ ep, a = .write 5 ep ∧ i = .bind ep) ∨
      ∃ n r, a = .read n ∧ readRegOf n = some r ∧ i = .rd r := by
  cases a with
  | write reg value =>
    simp only [decode] at h
    split_ifs at h with h0 hv h5
    · exact .inl ⟨_, by rw [h0, BitVec.toNat_ofNat, Nat.mod_eq_of_lt hv], h⟩
    · cases h; exact .inr (.inl ⟨value, by rw [h5], rfl⟩)
  | read n =>
    simp only [decode] at h
    split at h
    · next r hr => cases h; exact .inr (.inr ⟨n, r, rfl, hr, rfl⟩)
    · cases h

theorem decode_encode_of_commandOf {i : Instr} {opc arg : Byte} (h : commandOf i = some (opc, arg)) :
    decode (encode i) = .ok i := by
  rw [encode_of_commandOf h, decode_writeCmd, decodeCmd_cmdWord h]

end Sys2Proof

namespace Sys2Proof.Proofs

open Sys2Proof Sys2Proof.Machine

/-- Settles O2: a command's CMD word gives back its two fields, and each readable register has a number of its own. -/
theorem decodeOfEncodeIsTheOperation : Obligations.DecodeOfEncodeIsTheOperation := by
  intro i
  cases i with
  | startMeas | stopMeas | readResults | setCoeff | readCoeff | stopAutoSend | enableAutoSend =>
    exact decode_encode_of_commandOf rfl
  | bind ep => exact decode_writeBind ep
  | rd r => exact decode_read (readRegOf_regNumber r)

/-- Settles O3: OPC and ARG determine the CMD word, and a register's number is the only one that reads it. -/
theorem encodeOfDecodeIsTheAccess : Obligations.EncodeOfDecodeIsTheAccess := by
  intro a i h
  rcases decode_eq_ok h with ⟨w, rfl, hw⟩ | ⟨ep, rfl, rfl⟩ | ⟨n, r, rfl, hr, rfl⟩
  · rw [encode_of_commandOf (commandOf_of_decodeCmd hw), cmdWord_cmdArg_cmdOpc]
  · rfl
  · rw [encode, regNumber_of_readRegOf hr]

/-- Settles O4: the word decodes exactly to the command with its OPC and ARG, and the command table has the seven opcodes. -/
theorem onlyTheSevenOpcodesDecode : Obligations.OnlyTheSevenOpcodesDecode := by
  intro w
  simp only [decode_writeCmd, decodeCmd_eq_ok_iff]
  exact ⟨⟨fun h => exists_commandOf h _, fun ⟨_, hi⟩ => mem_commandOpcodes_of_commandOf hi⟩, decodeCmd_of_illegal⟩

/-- Settles O1: the decoder runs on the twelve written-out accesses. -/
theorem tableWordsDecodeAsTheSpecSays : Obligations.TableWordsDecodeAsTheSpecSays :=
  ⟨rfl, rfl, rfl, rfl, rfl, rfl, rfl, rfl, rfl, rfl, rfl, rfl⟩

end Sys2Proof.Proofs
end

section
/-!
PROOFS. The command frames (30_encoding.md rule R66): how the checksum of a sequence follows from its first byte.
-/
namespace Sys2Proof.Machine

open Sys2Proof

theorem checksum_nil : checksum [] = 0 := by decide

/-- Each covered byte is subtracted, modulo 256 (40_checksum.md rule R76). -/
theorem checksum_cons (b : Byte) (s : List Byte) : checksum (b :: s) = checksum s - b := by
  apply BitVec.eq_of_toNat_eq
  simp only [checksum, byteSum, BitVec.toNat_sub, BitVec.toNat_ofInt]
  have hb := b.isLt
  omega

theorem checksum_setCoeff (c : Byte) : checksum [0x68, 0x02, 0x08, c] = 0x8E - c := by
  simp only [checksum_cons, checksum_nil]
  bv_omega

theorem commandFrame_setCoeff (c : Byte) : commandFrame 0x08 c = [0x68, 0x02, 0x08, c, 0x8E - c] := by
  rw [← checksum_setCoeff]
  rfl

end Sys2Proof.Machine

namespace Sys2Proof.Proofs

open Sys2Proof Sys2Proof.Machine

/-- Settles O19: only SET_COEFF's frame depends on the argument byte; the six others are fixed bytes. -/
theorem commandFramesAreTheTable : Obligations.CommandFramesAreTheTable := by
  intro opc h arg
  obtain ⟨i, hi⟩ := exists_commandOf h arg
  cases i with
  | setCoeff => cases hi; exact commandFrame_setCoeff _
  | startMeas | stopMeas | readResults | readCoeff | stopAutoSend | enableAutoSend => cases hi; rfl
  | bind | rd => cases hi

end Sys2Proof.Proofs
end

section
/-!
PROOFS. A step on a host access: the operation it decodes to, or the fault of 60_exceptions.md section 3.
-/
namespace Sys2Proof.Machine

open Sys2Proof

/-! ### From the inbox to the operation or the refusal -/

theorem step_of_access {s : State} {a : HostAccess} {es : List HostEvent} (h : s.port.inbox = .access a :: es) :
    step s = hostAccess a (s.setInbox es) := by
  simp only [step, h]

theorem hostAccess_of_ok {a : HostAccess} {i : Instr} {s : State} (hd : decode a = .ok i)
    (hw : i.wellFormed s.params = true) : hostAccess a s = exec i s := by
  simp only [hostAccess, hd, if_pos hw]

theorem hostAccess_of_error {a : HostAccess} {e : DecodeError} (s : State) (hd : decode a = .error e) :
    hostAccess a s = refuseAccess e s := by
  simp only [hostAccess, hd]

theorem refuseAccess_illegalAccess {s : State} (hf : s.block.fault = none) :
    refuseAccess .illegalAccess s = .next (raise .illegalAccess s) := by
  rw [refuseAccess, unlessFaulted_clear hf, takeFault]

/-- Rule R135: for an illegal OPC, BUSY_ACCESS comes first. -/
theorem refuseAccess_illegalOpcode {s : State} (hf : s.block.fault = none) :
    refuseAccess .illegalOpcode s = .next (raise (if s.block.busy then .busyAccess else .illegalOpcode) s) := by
  rw [refuseAccess, unlessFaulted_clear hf]
  split_ifs <;> rfl

/-! ### The word of a table row, placed as the next event -/

theorem decode_tableAccess {n w : Nat} {i : Instr} (h : decodeTableWord n w = some i) :
    decode (tableAccess n w) = .ok i := by
  unfold decodeTableWord at h
  split at h
  · next hd => rw [hd, Option.some.inj h]
  · cases h

theorem step_withFetchWord (s : State) (n w : Nat) : step (s.withFetchWord n w) = hostAccess (tableAccess n w) s :=
  step_of_access rfl

end Sys2Proof.Machine

namespace Sys2Proof.Proofs

open Sys2Proof Sys2Proof.Machine

/-- Settles O31: the decoder refuses the access by name, and the refusal records its fault. -/
theorem refusedAccessesFault : Obligations.RefusedAccessesFault := by
  intro s es a hi hf
  have hf' : (s.setInbox es).block.fault = none := hf
  rw [step_of_access hi]
  constructor
  · rintro ⟨reg, ⟨rfl, hr⟩ | ⟨v, rfl, h0, h5⟩⟩
    · rw [hostAccess_of_error _ (decode_read_of_unreadable hr), refuseAccess_illegalAccess hf']
    · rw [hostAccess_of_error _ (decode_write_of_unwritable v h0 h5), refuseAccess_illegalAccess hf']
  · rintro w rfl ho
    have hd : decode (.write 0 w.toNat) = .error .illegalOpcode := (decode_writeCmd w).trans (decodeCmd_of_illegal ho)
    rw [hostAccess_of_error _ hd, refuseAccess_illegalOpcode hf', setInbox_block]

/-- Settles O41: taking the placed event off again gives back the state it was placed on. -/
theorem stepRunsTheDecodedOperation : Obligations.StepRunsTheDecodedOperation := by
  constructor
  · intro s a es i hi hd hw
    exact (step_of_access hi).trans (hostAccess_of_ok hd hw)
  · intro s n w i hd hw
    exact (step_withFetchWord s n w).trans (hostAccess_of_ok (decode_tableAccess hd) hw)

end Sys2Proof.Proofs
end

section
/-!
PROOFS. The checksum (40_checksum.md): it is the negated sum of the bytes in the integers modulo 256, so sums give its properties.
-/
namespace Sys2Proof.Machine

open Sys2Proof

/-- Rule R76's equation, in the integers. -/
theorem toNat_checksum (s : List Byte) : ((checksum s).toNat : Int) = (65536 - (byteSum s : Int)) % 256 := by
  rw [checksum, BitVec.toNat_ofInt]
  omega

/-- Rule R77: the two's-complement negation of the wrap-around sum. -/
theorem checksum_eq_neg_sum (s : List Byte) : checksum s = -s.sum := by
  induction s with
  | nil => exact checksum_nil
  | cons b s ih => rw [checksum_cons, ih, List.sum_cons, neg_add_rev, sub_eq_add_neg]

/-- Rule R77: the one's complement differs from the negation by 1. -/
theorem neg_ne_onesComplement (x : Byte) : -x ≠ 0xFF - x := by
  bv_omega

@[simp] theorem byteSum_append (s t : List Byte) : byteSum (s ++ t) = byteSum s + byteSum t := by
  induction s with
  | nil => exact (Nat.zero_add _).symm
  | cons b s ih => rw [List.cons_append, byteSum, byteSum, ih, Nat.add_assoc]

@[simp] theorem byteSum_singleton (c : Byte) : byteSum [c] = c.toNat := rfl

/-- Rule R80's zero sum: the exact sum and the checksum add up to a multiple of 256. -/
theorem byteSum_add_checksum (s : List Byte) : (byteSum s + (checksum s).toNat) % 256 = 0 := by
  have h := toNat_checksum s
  omega

/-- Only one byte makes the sum a multiple of 256, so it is the checksum. -/
theorem checksum_eq_iff (s : List Byte) (c : Byte) : checksum s = c ↔ byteSum (s ++ [c]) % 256 = 0 := by
  have h := byteSum_add_checksum s
  have hk := (checksum s).isLt
  have hc := c.isLt
  rw [byteSum_append, byteSum_singleton, ← BitVec.toNat_inj]
  omega

/-- Whatever stands around a byte, the checksum determines it. -/
theorem checksum_append_cons_inj (l r : List Byte) {b b' : Byte} :
    checksum (l ++ b :: r) = checksum (l ++ b' :: r) ↔ b = b' := by
  simp only [checksum_eq_neg_sum, List.sum_append, List.sum_cons, neg_inj, add_right_inj, add_left_inj]

theorem checksum_perm {s t : List Byte} (h : s.Perm t) : checksum s = checksum t := by
  rw [checksum_eq_neg_sum, checksum_eq_neg_sum, h.sum_eq]

end Sys2Proof.Machine

namespace Sys2Proof.Proofs

open Sys2Proof Sys2Proof.Machine

/-- Settles O5: the right fold of the obligation is the list's sum in the bytes. -/
theorem checksumIsTheNegatedSum : Obligations.ChecksumIsTheNegatedSum := by
  intro s
  rw [← List.sum_eq_foldr]
  have hneg := checksum_eq_neg_sum s
  exact ⟨toNat_checksum s, hneg, hneg ▸ neg_ne_onesComplement s.sum⟩

/-- Settles O6: the checksum completes the sum to a multiple of 256, and no other byte does. -/
theorem checksumZeroSum : Obligations.ChecksumZeroSum :=
  fun s c => ⟨byteSum_add_checksum s, checksum_eq_iff s c⟩

/-- Settles O7: a negated sum determines each summand from the others, and does not depend on their order. -/
theorem checksumDetectsOneChangedByte : Obligations.ChecksumDetectsOneChangedByte :=
  ⟨fun l r _ _ hne => mt (checksum_append_cons_inj l r).1 hne, fun _ _ => checksum_perm⟩

end Sys2Proof.Proofs
end

section
/-!
PROOFS. The command encoder (41_frame_encoder.md): what BUILD_FRAME refuses and what it builds, SEND_FRAME either way, and a short send.
-/
namespace Sys2Proof.Machine

open Sys2Proof

/-! ### BUILD_FRAME, case by case -/

/-- Rule R86: ABSENT stands for an empty payload only. -/
theorem buildFrame_absent (opc : Byte) {n : Nat} (s : State) (h : 0 < n) : buildFrame opc n none s = (.badArgument, s) := by
  rw [buildFrame, if_pos ⟨rfl, h⟩]

/-- Rule R87: past `MAX_TX_PAYLOAD` it makes no difference whether a payload is present. -/
theorem buildFrame_oversized (opc : Byte) {n : Nat} (pay : Option (List Byte)) (s : State) (h : 254 < n) :
    buildFrame opc n pay s = (.badArgument, s) := by
  rw [buildFrame, if_pos (show maxTxPayload < n from h), ite_self]

theorem buildFrame_accepted (opc : Byte) {n : Nat} {pay : Option (List Byte)} (s : State) (hp : pay = none → n = 0)
    (hn : n ≤ 254) : buildFrame opc n pay s = (.frameOk, s.setFrame (frameBytes opc n pay) (n + 4)) := by
  have hpresent : ¬ (pay = none ∧ 0 < n) := fun ⟨h, h0⟩ => by simp [hp h] at h0
  rw [buildFrame, if_neg hpresent, if_neg (show ¬ maxTxPayload < n from hn.not_gt)]

/-! ### The frame's bytes (rules R57 and R59) -/

theorem payloadBytes_of_exact {p : List Byte} {pay : Option (List Byte)} (h : pay = some p ∨ pay = none ∧ p = []) :
    payloadBytes p.length pay = p := by
  rcases h with rfl | ⟨rfl, rfl⟩
  · exact List.take_length
  · rfl

theorem length_frameBytes (opc : Byte) (n : Nat) (pay : Option (List Byte)) :
    (frameBytes opc n pay).length = (payloadBytes n pay).length + 4 := by
  simp [frameBytes, frameBody]

theorem byteSum_frameBytes (opc : Byte) (n : Nat) (pay : Option (List Byte)) : byteSum (frameBytes opc n pay) % 256 = 0 := by
  rw [frameBytes, byteSum_append, byteSum_singleton, byteSum_add_checksum]

/-- In a canonical TXBUF the frame to send is the frame that was built, whatever was there before. -/
theorem txFrame_setFrame {s : State} (hw : s.block.txBuf.wf) (f : List Byte) : (s.setFrame f f.length).txFrame = f := by
  simpa [State.txFrame] using Buffer.slice_writeAll hw 0 f

/-! ### SEND_FRAME and TRANSMIT (rules R90 and R91) -/

theorem sendFrame_refused {opc : Byte} {n : Nat} {pay : Option (List Byte)} {s : State}
    (h : buildFrame opc n pay (s.setPhase .build) = (.badArgument, s.setPhase .build)) :
    sendFrame opc n pay s = .ended (finish .badArgument (s.setPhase .build)) := by
  rw [sendFrame, h]

theorem sendFrame_accepted (opc : Byte) {n : Nat} {pay : Option (List Byte)} (s : State) (hp : pay = none → n = 0)
    (hn : n ≤ 254) : sendFrame opc n pay s = sendBuilt ((s.setPhase .build).setFrame (frameBytes opc n pay) (n + 4)) := by
  rw [sendFrame, buildFrame_accepted opc _ hp hn]

/-- The LINK after a TxSend that used a listed count and was logged. -/
def Link.afterSend (ts : List TxDraw) (ep : Option Nat) (f : List Byte) (k : Nat) (l : Link) : Link :=
  { l with txDraws := ts, log := l.log ++ [.txSend ep f k] }

/-- TxSend with a listed count (rule R42). -/
theorem txSend_sent {f : List Byte} {s : State} {k : Nat} {ts : List TxDraw} (h : s.link.txDraws = .sent k :: ts) :
    txSend f s = (some (min k f.length), s.setLink (s.link.afterSend ts s.block.ep f (min k f.length))) := by
  simp only [txSend, Link.nextTx, h, Link.afterSend]

/-- A short send ends the operation in the state right after its one TxSend. -/
theorem sendBuilt_short {s : State} {k : Nat} {ts : List TxDraw} (hl : s.block.txLen = some s.txFrame.length)
    (hd : s.link.txDraws = .sent k :: ts) (hk : k < s.txFrame.length) :
    sendBuilt s = .ended (finish .txIncomplete
      ((s.setPhase .tx).setLink (s.link.afterSend ts s.block.ep s.txFrame k))) := by
  have hsend : txSend (s.setPhase .tx).txFrame (s.setPhase .tx) =
      (some k, (s.setPhase .tx).setLink (s.link.afterSend ts s.block.ep s.txFrame k)) := by
    rw [← Nat.min_eq_left hk.le]
    exact txSend_sent hd
  have hshort : k < ((s.setPhase .tx).setLink (s.link.afterSend ts s.block.ep s.txFrame k)).block.txLen.getD 0 := by
    simpa [hl] using hk
  simp only [sendBuilt, transmit, hsend, if_pos hshort, Flow.andThen]

end Sys2Proof.Machine

namespace Sys2Proof.Proofs

open Sys2Proof Sys2Proof.Machine

/-- Settles O8: TXBUF read back gives the bytes written to it, whose last makes the sum a multiple of 256. -/
theorem buildFrameBuildsTheFrame : Obligations.BuildFrameBuildsTheFrame := by
  intro opc p pay s hw hn hpay
  have hbytes := payloadBytes_of_exact hpay
  have hlen : (frameBytes opc p.length pay).length = p.length + 4 := by rw [length_frameBytes, hbytes]
  have hframe : (s.setFrame (frameBytes opc p.length pay) (p.length + 4)).txFrame = frameBytes opc p.length pay :=
    hlen ▸ txFrame_setFrame hw _
  have habsent : pay = none → p.length = 0 := by
    rintro rfl
    obtain h | ⟨-, rfl⟩ := hpay
    · cases h
    · rfl
  refine ⟨_, checksum (frameBody opc p.length pay), buildFrame_accepted opc s habsent hn, rfl, ?_, ?_, ?_, ?_, rfl, fun i hi => ?_⟩
  · rw [hframe, frameBytes, frameBody, hbytes]
    rfl
  · rw [frameBody, hbytes]
    rfl
  · rw [BitVec.toNat_ofNat, Nat.mod_eq_of_lt (by omega)]
  · rw [hframe, byteSum_frameBytes]
  · exact Buffer.read_writeAll_other _ _ _ _ (.inr (by omega))

/-- Settles O9: each of the two clauses is one refusal of BUILD_FRAME. -/
theorem buildFrameRefusesBadArguments : Obligations.BuildFrameRefusesBadArguments :=
  fun opc _ s => ⟨buildFrame_absent opc s, fun pay => buildFrame_oversized opc pay s⟩

/-- Settles O10: a refused BUILD_FRAME leaves SEND_FRAME nothing but PHASE and `finish` to write. -/
theorem sendFrameBadArgumentSendsNothing : Obligations.SendFrameBadArgumentSendsNothing := by
  intro opc n pay s h
  refine ⟨_, sendFrame_refused ?_, ⟨rfl, rfl, rfl⟩, rfl, ⟨rfl, rfl, rfl, rfl, rfl⟩, ⟨rfl, rfl, rfl⟩, rfl, rfl⟩
  obtain ⟨rfl, hn⟩ | hn := h
  · exact buildFrame_absent opc _ hn
  · exact buildFrame_oversized opc pay _ hn

end Sys2Proof.Proofs
end

section
/-!
PROOFS. A command from its CMD write on (43_commands.md): its frame is built, and what follows is the ENGINE going on from TX; what
that can change, said once for the simple commands and once for the data commands.
-/
namespace Sys2Proof.Machine

open Sys2Proof

/-! ### The bodies by shape -/

/-- The payload length and the payload that a simple command's body passes to RUN_SIMPLE (rules R113 and R119). -/
def simplePayload (opc : Byte) (s : State) : Nat × Option (List Byte) :=
  if opc = 0x08 then (1, some s.block.curArg.toList) else (0, none)

/-- What a data command does with the payload of its reply (rules R118 and R120). -/
def deliver (opc : Byte) : List Byte → State → Flow Unit := if opc = 0x04 then deliverResults else deliverCoeff

theorem bodyOf_simple {opc : Byte} (hm : opc ∈ commandOpcodes) (hd : dataCapacity opc = none) (p : Phase) (s : State) :
    bodyOf opc p s = (runSimple opc (simplePayload opc s).1 (simplePayload opc s).2 p s).state := by
  obtain ⟨i, hi⟩ := exists_commandOf hm 0
  cases i with
  | startMeas | stopMeas | setCoeff | stopAutoSend | enableAutoSend => cases hi; rfl
  | readResults | readCoeff => cases hi; cases hd
  | bind | rd => cases hi

theorem bodyOf_data {opc : Byte} {cap : Nat} (hd : dataCapacity opc = some cap) (p : Phase) (s : State) :
    bodyOf opc p s = ((runComplex opc cap cap p s).andThen (deliver opc)).state := by
  unfold dataCapacity at hd
  split_ifs at hd with h4 h10 <;> cases hd
  · subst h4; rfl
  · subst h10; rfl

theorem simplePayload_accepted (opc : Byte) (s : State) :
    ((simplePayload opc s).2 = none → (simplePayload opc s).1 = 0) ∧ (simplePayload opc s).1 ≤ 254 := by
  unfold simplePayload
  split_ifs <;> simp

/-- The frame of a simple command whose ARG byte is latched (rule R65). -/
theorem frameBytes_simplePayload (opc : Byte) {arg : Byte} {s : State} (ha : s.block.curArg = some arg) :
    frameBytes opc (simplePayload opc s).1 (simplePayload opc s).2 = commandFrame opc arg ∧
      (simplePayload opc s).1 + 4 = (commandFrame opc arg).length := by
  unfold simplePayload commandFrame
  split_ifs <;> simp [ha, length_frameBytes, payloadBytes]

/-- The frame of a data command has no payload (rule R65). -/
theorem frameBytes_data {opc : Byte} {cap : Nat} (hd : dataCapacity opc = some cap) (arg : Byte) :
    frameBytes opc 0 none = commandFrame opc arg ∧ 0 + 4 = (commandFrame opc arg).length := by
  have h8 : opc ≠ 0x08 := fun h => by subst h; cases hd
  rw [commandFrame, if_neg h8]
  exact ⟨rfl, rfl⟩

/-! ### A command is its frame, then the ENGINE going on from TX -/

/-- The command's frame is in TXBUF and TXLEN (rule R85). -/
def State.built (opc arg : Byte) (s : State) : State := s.setFrame (commandFrame opc arg) (commandFrame opc arg).length

theorem bodyOf_build {opc arg : Byte} {s : State} (hm : opc ∈ commandOpcodes) (ha : s.block.curArg = some arg) :
    bodyOf opc .build s = bodyOf opc .tx ((s.setPhase .build).built opc arg) := by
  cases hd : dataCapacity opc with
  | none =>
    obtain ⟨hframe, hlen⟩ := frameBytes_simplePayload opc ha
    obtain ⟨habsent, hmax⟩ := simplePayload_accepted opc s
    rw [bodyOf_simple hm hd, bodyOf_simple hm hd, runSimple, sendFrame_accepted opc s habsent hmax, hframe, hlen]
    rfl
  | some cap =>
    obtain ⟨hframe, hlen⟩ := frameBytes_data hd arg
    rw [bodyOf_data hd, bodyOf_data hd, runComplex, sendFrame_accepted opc s (fun _ => rfl) (by decide), hframe, hlen]
    rfl

/-- Where the send ends the operation nothing follows. -/
theorem bodyOf_tx_of_ended {opc : Byte} {s t : State} (hm : opc ∈ commandOpcodes) (h : sendBuilt s = .ended t) :
    bodyOf opc .tx s = t := by
  cases hd : dataCapacity opc with
  | none => rw [bodyOf_simple hm hd, runSimple, h]; rfl
  | some cap => rw [bodyOf_data hd, runComplex, h]; rfl

/-! ### The command request -/

theorem exec_of_commandOf {i : Instr} {opc arg : Byte} (h : commandOf i = some (opc, arg)) (s : State) :
    exec i s = startCommand opc arg (bodyOf opc) s := by
  cases i <;> cases h <;> rfl

/-- The command has started: its request is latched and its frame built. -/
def State.started (opc arg : Byte) (s : State) : State := (s.latch opc arg).built opc arg

theorem bodyOf_build_latch {opc : Byte} (hm : opc ∈ commandOpcodes) (arg : Byte) (s : State) :
    bodyOf opc .build (s.latch opc arg) = bodyOf opc .tx (s.started opc arg) :=
  bodyOf_build hm rfl

theorem exec_of_ready {i : Instr} {opc arg : Byte} {s : State} (h : commandOf i = some (opc, arg)) (hr : Ready s) :
    exec i s = .next (bodyOf opc .tx (s.started opc arg)) := by
  obtain ⟨hf, hb, hn⟩ := hr
  rw [exec_of_commandOf h, startCommand, unlessFaulted_clear hf, if_neg (by simp [hb]), if_pos hn,
    bodyOf_build_latch (mem_commandOpcodes_of_commandOf h)]

/-- A CMD write that answers a next state raised a fault or ran its command. -/
theorem exec_command_next {i : Instr} {opc arg : Byte} {s t : State} (h : commandOf i = some (opc, arg))
    (ht : exec i s = .next t) : (∃ r, t = raise r s) ∨ t = bodyOf opc .tx (s.started opc arg) := by
  rw [exec_of_commandOf h] at ht
  obtain ⟨-, ⟨-, ht⟩ | ⟨-, -, ht⟩ | ⟨-, -, ht⟩⟩ := startCommand_next ht
  · exact .inl ⟨_, ht⟩
  · exact .inr (ht.trans (bodyOf_build_latch (mem_commandOpcodes_of_commandOf h) arg s))
  · exact .inl ⟨_, ht⟩

end Sys2Proof.Machine

namespace Sys2Proof.Proofs

open Sys2Proof Sys2Proof.Machine

/-- Settles O25: the frame sent is the one built, and a count below its length ends the command there. -/
theorem shortSendEndsTheCommand : Obligations.ShortSendEndsTheCommand := by
  intro i opc arg s k ts hi hinv hr hd hk
  have hm := mem_commandOpcodes_of_commandOf hi
  have hframe : (s.started opc arg).txFrame = frameOf opc arg :=
    (txFrame_setFrame hinv.store.tx_wf _).trans (commandFramesAreTheTable opc hm arg)
  have hlen : (s.started opc arg).block.txLen = some (s.started opc arg).txFrame.length := by
    rw [hframe, ← commandFramesAreTheTable opc hm arg]
    rfl
  have hend := sendBuilt_short hlen hd (hframe ▸ hk)
  refine ⟨_, (exec_of_ready hi hr).trans (congrArg _ (bodyOf_tx_of_ended hm hend)), ⟨rfl, rfl, rfl⟩,
    ⟨rfl, rfl, rfl, rfl, rfl⟩, ⟨rfl, rfl, rfl⟩, ?_⟩
  rw [hframe]
  rfl

end Sys2Proof.Proofs
end

section
/-!
PROOFS. What holds across a command once its frame is built: a property of states that each of its updates keeps, kept by the whole.
-/
namespace Sys2Proof.Machine

open Sys2Proof

/-- The updates of a command with no data reply keep `P`, once its frame is built: PHASE, the LINK, received bytes at indices of
RXBUF below `w`, and `finish` with a status of rule R124. -/
structure KeptByExchange (w : Nat) (P : State → Prop) : Prop where
  setPhase : ∀ {s} (p : Phase), P s → P (s.setPhase p)
  setLink : ∀ {s} (l : Link), P s → P (s.setLink l)
  storeRx : ∀ {s} {i : Nat} {bs : List Byte}, i + bs.length ≤ w → P s → P (s.storeRx i bs)
  finish : ∀ {s} {st : Status}, st ≠ .badArgument → P s → P (finish st s)

/-- So do the updates that only a data command makes: the output slots and the results. -/
structure KeptByDataExchange (w : Nat) (P : State → Prop) : Prop extends KeptByExchange w P where
  setAck : ∀ {s} (l op : Option Byte) (p : List Byte), P s → P (s.setAck l op p)
  setResults : ∀ {s} (fine coarse : Half), P s → P (s.setResults fine coarse)
  setCoeff : ∀ {s} (v : Byte), P s → P (s.setCoeff v)

section
variable {w : Nat} {P : State → Prop} {s : State}

/-- A sequence keeps what its parts keep. -/
theorem Flow.andThen_state {α β : Type} {f : Flow α} {k : α → State → Flow β} (hf : P f.state)
    (hk : ∀ a t, f = .go a t → P t → P (k a t).state) : P (f.andThen k).state := by
  cases f with
  | wait t => exact hf
  | ended t => exact hf
  | go a t => exact hk a t rfl hf

/-! ### The link primitives -/

theorem KeptByExchange.txSend (h : KeptByExchange w P) (f : List Byte) (hs : P s) : P (txSend f s).2 := by
  unfold Machine.txSend
  split <;> exact h.setLink _ hs

theorem KeptByExchange.rxRecv (h : KeptByExchange w P) (n : Nat) (hs : P s) : P (rxRecv n s).2 := by
  unfold Machine.rxRecv
  split
  · exact h.setLink _ hs
  · unfold rxAnswer
    dsimp only
    split <;> exact h.setLink _ (h.setLink _ hs)

theorem KeptByExchange.rxHeader (h : KeptByExchange w P) (hs : P s) :
    P (Machine.rxRecv 2 (settleUnread (s.setPhase .rxHdr))).2 := by
  refine h.rxRecv 2 ?_
  unfold settleUnread
  split
  · exact h.setPhase _ hs
  · exact h.setLink _ (h.setPhase _ hs)

/-! ### The send and the simple ack -/

theorem KeptByExchange.sendBuilt (h : KeptByExchange w P) (hs : P s) : P (sendBuilt s).state := by
  have htransmit : P (transmit s).state := by
    have ht := h.txSend (s.setPhase .tx).txFrame (h.setPhase .tx hs)
    unfold transmit
    dsimp only
    split
    · next t heq => rw [heq] at ht; exact ht
    · next k t heq => rw [heq] at ht; split <;> exact ht
  refine Flow.andThen_state htransmit fun r t _ ht => ?_
  cases r with
  | sent => exact ht
  | short => exact h.finish (by decide) ht

theorem KeptByExchange.readSimpleAck (h : KeptByExchange w P) (hw : 2 ≤ w) (hs : P s) : P (readSimpleAck s).state := by
  have hr := h.rxHeader hs
  unfold Machine.readSimpleAck
  split
  · next t heq => rw [heq] at hr; exact hr
  · next t heq => rw [heq] at hr; exact hr
  · next bs t heq =>
    have hlen := rxRecv_ok_length heq
    rw [heq] at hr
    exact h.storeRx (by omega) hr

theorem ackStatus_ne_badArgument (a : AckOutcome) : ackStatus a ≠ .badArgument := by cases a <;> decide

theorem KeptByExchange.simpleReply (h : KeptByExchange w P) (hw : 2 ≤ w) (hs : P s) :
    P ((Machine.readSimpleAck s).andThen simpleCheck).state :=
  Flow.andThen_state (h.readSimpleAck hw hs) fun a _ _ ht => h.finish (ackStatus_ne_badArgument a) (h.setPhase _ ht)

/-- From every PHASE but BUILD, RUN_SIMPLE keeps what its updates keep. -/
theorem KeptByExchange.runSimple (h : KeptByExchange w P) (hw : 2 ≤ w) (opc : Byte) (n : Nat) (pay : Option (List Byte))
    {p : Phase} (hp : p ≠ .build) (hs : P s) : P (runSimple opc n pay p s).state := by
  cases p with
  | build => exact absurd rfl hp
  | tx => exact Flow.andThen_state (h.sendBuilt hs) fun _ _ _ ht => h.simpleReply hw ht
  | rxHdr => exact h.simpleReply hw hs
  | idle => exact hs
  | rxBody => exact hs
  | check => exact hs

/-! ### The complex ack and its delivery -/

/-- A header that goes on to the second receive declares at most `cap + 1` bytes (rule R101). -/
theorem length_le_of_complexHeader {r cap : Nat} {b0 b1 : Byte} (h : complexHeader r cap b0 b1 = none) :
    b1.toNat ≤ cap + 1 := by
  unfold complexHeader at h
  split_ifs at h
  omega

theorem declaredLength_of_read {l : Byte} (h : s.block.rxBuf.read 1 = some l) : s.declaredLength = l.toNat := by
  rw [State.declaredLength, h]

theorem KeptByDataExchange.readComplexBody (h : KeptByDataExchange w P) (hl : s.declaredLength + 3 ≤ w) (hs : P s) :
    P (readComplexBody s).state := by
  have hr := h.rxRecv (s.declaredLength + 1) (h.setPhase .rxBody hs)
  unfold Machine.readComplexBody
  split
  · next t heq => rw [heq] at hr; exact hr
  · next t heq => rw [heq] at hr; exact hr
  · next bs t heq =>
    have hlen := rxRecv_ok_length heq
    rw [heq] at hr
    have hstored : P (t.storeRx 2 bs) := h.storeRx (by omega) hr
    dsimp only
    split_ifs
    · exact h.setAck _ _ _ hstored
    · exact hstored

theorem KeptByDataExchange.readComplexAck (h : KeptByDataExchange w P) {cap : Nat} (hw : cap + 4 ≤ w) (hs : P s) :
    P (readComplexAck cap s).state := by
  have hr := h.rxHeader hs
  unfold Machine.readComplexAck
  split
  · next t heq => rw [heq] at hr; exact hr
  · next t heq => rw [heq] at hr; exact hr
  · next bs t heq =>
    have hlen := rxRecv_ok_length heq
    rw [heq] at hr
    have hstored : P (t.storeRx 0 bs) := h.storeRx (by omega) hr
    dsimp only
    split
    · next b0 b1 =>
      split
      · exact hstored
      · next hnone =>
        have hdecl : (t.storeRx 0 [b0, b1]).declaredLength = b1.toNat :=
          declaredLength_of_read (Buffer.read_writeAll t.block.rxBuf 0 1 [b0, b1] Nat.one_lt_two)
        have hcap := length_le_of_complexHeader hnone
        exact h.readComplexBody (by omega) hstored
    · exact hstored

theorem KeptByDataExchange.complexCheck (h : KeptByDataExchange w P) (opc : Byte) (n : Nat) (a : AckOutcome) (hs : P s) :
    P (complexCheck opc n a s).state := by
  have hc := h.setPhase .check hs
  unfold Machine.complexCheck
  cases a with
  | negative => exact h.finish (by decide) hc
  | error => exact h.finish (by decide) hc
  | badChecksum => exact h.finish (by decide) hc
  | positive =>
    dsimp only
    split
    · split_ifs
      · exact hc
      · exact h.finish (by decide) hc
    · exact h.finish (by decide) hc

theorem KeptByDataExchange.complexReply (h : KeptByDataExchange w P) {cap : Nat} (hw : cap + 4 ≤ w) (opc : Byte) (n : Nat)
    (hs : P s) : P ((Machine.readComplexAck cap s).andThen (Machine.complexCheck opc n)).state :=
  Flow.andThen_state (h.readComplexAck hw hs) fun a _ _ ht => h.complexCheck opc n a ht

/-- From every PHASE but BUILD, RUN_COMPLEX keeps what its updates keep; in RX_BODY the length is the one already received. -/
theorem KeptByDataExchange.runComplex (h : KeptByDataExchange w P) {cap : Nat} (hw : cap + 4 ≤ w) (opc : Byte) (n : Nat)
    {p : Phase} (hp : p ≠ .build) (hbody : p = .rxBody → s.declaredLength + 3 ≤ w) (hs : P s) :
    P (runComplex opc cap n p s).state := by
  cases p with
  | build => exact absurd rfl hp
  | tx => exact Flow.andThen_state (h.sendBuilt hs) fun _ _ _ ht => h.complexReply hw opc n ht
  | rxHdr => exact h.complexReply hw opc n hs
  | rxBody => exact Flow.andThen_state (h.readComplexBody (hbody rfl) hs) fun a _ _ ht => h.complexCheck opc n a ht
  | idle => exact hs
  | check => exact hs

theorem KeptByDataExchange.deliver (h : KeptByDataExchange w P) (opc : Byte) (p : List Byte) (hs : P s) :
    P (deliver opc p s).state := by
  unfold Machine.deliver
  split_ifs
  · unfold deliverResults
    split
    · exact h.finish (by decide) (h.setResults _ _ hs)
    · exact h.finish (by decide) hs
  · unfold deliverCoeff
    split
    · exact h.finish (by decide) (h.setCoeff _ hs)
    · exact h.finish (by decide) hs

/-! ### The whole command, from a PHASE on -/

theorem KeptByExchange.bodyOf (h : KeptByExchange 2 P) {opc : Byte} (hm : opc ∈ commandOpcodes) (hd : dataCapacity opc = none)
    {p : Phase} (hp : p ≠ .build) (hs : P s) : P (bodyOf opc p s) := by
  rw [bodyOf_simple hm hd]
  exact h.runSimple le_rfl _ _ _ hp hs

theorem KeptByDataExchange.bodyOf {opc : Byte} {cap : Nat} (h : KeptByDataExchange (cap + 4) P) (hd : dataCapacity opc = some cap)
    {p : Phase} (hp : p ≠ .build) (hbody : p = .rxBody → s.declaredLength ≤ cap + 1) (hs : P s) : P (bodyOf opc p s) := by
  rw [bodyOf_data hd]
  exact Flow.andThen_state (h.runComplex le_rfl opc cap hp (fun h => by have := hbody h; omega) hs)
    fun q _ _ ht => h.deliver opc q ht

end

/-! ### The ENGINE going on -/

/-- Under the invariant, an operation that goes on does so with the body CUR_OP selects, from a PHASE that is not BUILD. -/
theorem resume_of_busy {s : State} {opc : Byte} (hinv : Inv s) (hb : s.block.busy = true) (ho : s.block.curOp = some opc) :
    resume s = bodyOf opc s.block.phase s ∧ opc ∈ commandOpcodes := by
  obtain ⟨-, opc', -, ho', -, hm⟩ := hinv.op.current hb
  obtain rfl : opc' = opc := by simpa [ho'] using ho
  exact ⟨by simp only [resume, hb, if_true, ho], hm⟩

/-- Under the invariant, the length received before RX_BODY fits the command's capacity. -/
theorem declaredLength_le {s : State} {opc : Byte} {cap : Nat} (hinv : Inv s) (ho : s.block.curOp = some opc)
    (hd : dataCapacity opc = some cap) (hp : s.block.phase = .rxBody) : s.declaredLength ≤ cap + 1 := by
  obtain ⟨opc', cap', l, ho', hd', -, hl, hh⟩ := hinv.op.body hp
  obtain rfl : opc' = opc := by simpa [ho'] using ho
  obtain rfl : cap' = cap := by simpa [hd'] using hd
  exact declaredLength_of_read hl ▸ length_le_of_complexHeader hh

theorem resume_of_idle {s : State} (hb : s.block.busy = false) : resume s = s := by
  rw [resume, if_neg (by simp [hb])]

/-- The invariant is about the block, the LINK and the parameters, not about the events to come. -/
theorem inv_setInbox {s : State} (h : Inv s) (es : List HostEvent) : Inv (s.setInbox es) :=
  ⟨{ h.reg with }, { h.op with }, { h.store with }⟩

theorem engineMove_resume {s t : State} (h : EngineMove s t) : ∃ es, t = resume (s.setInbox es) := by
  obtain ⟨hi, h⟩ := h
  obtain ⟨left, es, he, -⟩ | ⟨es, -, -, ht⟩ | ⟨a, i, es, he, -⟩ | ⟨a, es, r, he, -⟩ := step_next h
  case inr.inl => exact ⟨es, ht⟩
  all_goals simp [he] at hi

end Sys2Proof.Machine
end

section
/-!
PROOFS. What a command writes of its buffers, and that none ends with BAD_ARGUMENT (41_frame_encoder.md rules R85 and R86).
-/
namespace Sys2Proof.Machine

open Sys2Proof

/-! ### What a command writes of its buffers (rules R85, R94 and R106) -/

/-- From `s` to `t`, TXBUF is not written and RXBUF only below index `w`. -/
structure WritesBelow (w : Nat) (s t : State) : Prop where
  txBuf : t.block.txBuf = s.block.txBuf
  rxBuf : ∀ j, w ≤ j → t.block.rxBuf.read j = s.block.rxBuf.read j

/-- ACK_L, ACK_OP and ACK_P are unchanged. -/
def SameAck (s t : State) : Prop :=
  t.block.ackL = s.block.ackL ∧ t.block.ackOp = s.block.ackOp ∧ t.block.ackP = s.block.ackP

theorem writesBelow_kept (w : Nat) (s : State) : KeptByDataExchange w (WritesBelow w s) where
  setPhase _ h := ⟨h.txBuf, h.rxBuf⟩
  setLink _ h := ⟨h.txBuf, h.rxBuf⟩
  storeRx hw h := ⟨h.txBuf, fun j hj => (Buffer.read_writeAll_other _ _ j _ (.inr (hw.trans hj))).trans (h.rxBuf j hj)⟩
  finish _ h := ⟨h.txBuf, h.rxBuf⟩
  setAck _ _ _ h := ⟨h.txBuf, h.rxBuf⟩
  setResults _ _ h := ⟨h.txBuf, h.rxBuf⟩
  setCoeff _ h := ⟨h.txBuf, h.rxBuf⟩

theorem sameAck_kept (w : Nat) (s : State) : KeptByExchange w (SameAck s) where
  setPhase _ h := h
  setLink _ h := h
  storeRx _ h := h
  finish _ h := h

/-- What the command with this opcode may write once its frame is built: by a simple ack, or by a complex ack of its capacity. -/
structure WritesReply (opc : Byte) (s t : State) : Prop where
  simple : dataCapacity opc = none → WritesBelow 2 s t ∧ SameAck s t
  data : ∀ cap, dataCapacity opc = some cap → WritesBelow (cap + 4) s t

theorem WritesReply.txBuf {opc : Byte} {s t : State} (h : WritesReply opc s t) : t.block.txBuf = s.block.txBuf := by
  cases hd : dataCapacity opc with
  | none => exact (h.simple hd).1.txBuf
  | some cap => exact (h.data cap hd).txBuf

theorem bodyOf_writesReply {opc : Byte} (hm : opc ∈ commandOpcodes) {p : Phase} {s : State} (hp : p ≠ .build)
    (hbody : p = .rxBody → ∀ cap, dataCapacity opc = some cap → s.declaredLength ≤ cap + 1) :
    WritesReply opc s (bodyOf opc p s) where
  simple hd := ⟨(writesBelow_kept 2 s).toKeptByExchange.bodyOf hm hd hp ⟨rfl, fun _ _ => rfl⟩,
    (sameAck_kept 2 s).bodyOf hm hd hp ⟨rfl, rfl, rfl⟩⟩
  data cap hd := (writesBelow_kept (cap + 4) s).bodyOf hd hp (fun h => hbody h cap hd) ⟨rfl, fun _ _ => rfl⟩

theorem dataCapacity_of_simpleOf {i : Instr} {opc arg : Byte} {c : Byte × Byte} (h : commandOf i = some (opc, arg))
    (hs : simpleOf i = some c) : dataCapacity opc = none := by
  cases i <;> cases h <;> cases hs <;> rfl

theorem dataCapacity_of_dataOf {i : Instr} {opc arg c a : Byte} {cap : Nat} (h : commandOf i = some (opc, arg))
    (hd : dataOf i = some (c, a, cap)) : dataCapacity opc = some cap := by
  cases i <;> cases h <;> cases hd <;> rfl

/-! ### BAD_ARGUMENT (rules R86 and R124) -/

/-- CODE does not hold BAD_ARGUMENT. -/
def NotBadArgument (t : State) : Prop := t.block.code ≠ some 1

theorem statusCode_ne_one {st : Status} (h : st ≠ .badArgument) : statusCode st ≠ 1 := by
  cases st with
  | badArgument => exact absurd rfl h
  | ok | negativeAck | badResponse | badChecksum | txIncomplete => decide

theorem notBadArgument_kept (w : Nat) : KeptByDataExchange w NotBadArgument where
  setPhase _ h := h
  setLink _ h := h
  storeRx _ h := h
  finish hst _ := fun h => statusCode_ne_one hst (Option.some.inj h)
  setAck _ _ _ h := h
  setResults _ _ h := h
  setCoeff _ h := h

theorem bodyOf_notBadArgument {opc : Byte} (hm : opc ∈ commandOpcodes) {p : Phase} {s : State} (hp : p ≠ .build)
    (hbody : p = .rxBody → ∀ cap, dataCapacity opc = some cap → s.declaredLength ≤ cap + 1) (hs : NotBadArgument s) :
    NotBadArgument (bodyOf opc p s) := by
  cases hd : dataCapacity opc with
  | none => exact (notBadArgument_kept 2).toKeptByExchange.bodyOf hm hd hp hs
  | some cap => exact (notBadArgument_kept (cap + 4)).bodyOf hd hp (fun h => hbody h cap hd) hs

theorem resume_notBadArgument {s : State} (hinv : Inv s) (hs : NotBadArgument s) : NotBadArgument (resume s) := by
  cases hb : s.block.busy with
  | false => rwa [resume_of_idle hb]
  | true =>
    obtain ⟨-, opc, -, ho, -⟩ := hinv.op.current hb
    obtain ⟨hr, hm⟩ := resume_of_busy hinv hb ho
    rw [hr]
    exact bodyOf_notBadArgument hm hinv.reg.no_build (fun hp _ hd => declaredLength_le hinv ho hd hp) hs

theorem exec_notBadArgument {i : Instr} {s t : State} (hs : NotBadArgument s) (h : exec i s = .next t) : NotBadArgument t := by
  obtain ⟨-, ⟨r, rfl⟩ | ⟨opc, arg, -, -, hm, rfl⟩ | ⟨ep, -, -, rfl⟩ | ⟨r, v, -, -, rfl⟩⟩ := exec_next h
  · exact hs
  · rw [bodyOf_build_latch hm]
    exact bodyOf_notBadArgument hm (by decide) (fun hp => absurd hp (by decide)) hs
  · exact hs
  · exact hs

end Sys2Proof.Machine

namespace Sys2Proof.Proofs

open Sys2Proof Sys2Proof.Machine

/-- Settles O34: TXBUF is written by the frame alone, RXBUF by the receives, whose sizes the header checks bound. -/
theorem commandsWriteInsideTheirBuffers : Obligations.CommandsWriteInsideTheirBuffers := by
  constructor
  · intro i opc arg s t hi ht
    have hm := mem_commandOpcodes_of_commandOf hi
    obtain ⟨r, rfl⟩ | rfl := exec_command_next hi ht
    · exact ⟨fun _ _ => rfl, fun _ _ => ⟨fun _ _ => rfl, rfl, rfl, rfl⟩, fun _ _ _ _ _ => rfl⟩
    · have hw : WritesReply opc (s.started opc arg) (bodyOf opc .tx (s.started opc arg)) :=
        bodyOf_writesReply hm (by decide) fun hp => absurd hp (by decide)
      refine ⟨fun j hj => ?_, fun c hc => ?_, fun c cap hc => ?_⟩
      · rw [← commandFramesAreTheTable opc hm arg] at hj
        rw [hw.txBuf]
        exact Buffer.read_writeAll_other _ _ _ _ (.inr (by omega))
      · obtain ⟨hbelow, hack⟩ := hw.simple (dataCapacity_of_simpleOf hi hc)
        exact ⟨hbelow.rxBuf, hack⟩
      · exact (hw.data cap (dataCapacity_of_dataOf hi hc)).rxBuf
  · intro opc s t hinv hb ho hmove
    obtain ⟨es, rfl⟩ := engineMove_resume hmove
    have hinv' := inv_setInbox hinv es
    obtain ⟨hr, hm⟩ := resume_of_busy hinv' hb ho
    have hw := bodyOf_writesReply hm hinv'.reg.no_build fun hp _ hd => declaredLength_le hinv' ho hd hp
    rw [hr]
    refine ⟨hw.txBuf, fun hd => ?_, fun cap hd => (hw.data cap hd).rxBuf⟩
    obtain ⟨hbelow, hack⟩ := hw.simple hd
    exact ⟨hbelow.rxBuf, hack⟩

/-- Settles O46: every payload of the seven commands is accepted, so no `finish` of theirs has BAD_ARGUMENT. -/
theorem noStepEndsWithBadArgument : Obligations.NoStepEndsWithBadArgument := by
  intro s t hinv hs h
  obtain ⟨left, es, -, rfl⟩ | ⟨es, -, -, rfl⟩ | ⟨a, i, es, -, -, -, hx⟩ | ⟨a, es, r, -, -, rfl⟩ := step_next h
  · simp [Block.reset]
  · exact resume_notBadArgument (inv_setInbox hinv es) hs
  · exact exec_notBadArgument (s := s.setInbox es) hs hx
  · exact hs

end Sys2Proof.Proofs
end

section
/-!
PROOFS. The header check (42_ack_validator.md rules R98 to R101) and the simple classification (rules R94 and R95), pair by pair.
-/
namespace Sys2Proof.Machine

open Sys2Proof

/-- The header check by the reply it accepts: `96 96` is Negative; of the other pairs, a mark with a length that is not 0 and fits
buffer and capacity goes on, and the rest are Error. -/
theorem complexHeader_eq (r cap : Nat) (b0 b1 : Byte) :
    complexHeader r cap b0 b1 =
      if b0 = ackNeg ∧ b1 = ackNeg then some .negative
      else if b0 = cpxMark ∧ 1 ≤ b1.toNat ∧ b1.toNat + 3 ≤ r ∧ b1.toNat ≤ cap + 1 then none else some .error := by
  unfold complexHeader
  by_cases hneg : b0 = ackNeg ∧ b1 = ackNeg
  · rw [if_pos hneg, if_pos hneg]
  · rw [if_neg hneg, if_neg hneg]
    by_cases hmark : b0 = cpxMark
    · simp only [hmark, ne_eq, not_true, if_false, true_and]
      by_cases hok : 1 ≤ b1.toNat ∧ b1.toNat + 3 ≤ r ∧ b1.toNat ≤ cap + 1
      · rw [if_pos hok, if_neg (show ¬ b1.toNat = 0 by omega), if_neg (show ¬ b1.toNat + 3 > r by omega),
          if_neg (show ¬ b1.toNat - 1 > cap by omega)]
      · rw [if_neg hok]
        split_ifs
        · rfl
        · rfl
        · rfl
        · omega
    · rw [if_pos hmark, if_neg (fun h => hmark h.1)]

/-- The mark of a positive reply is not the byte of a negative one (rule R56). -/
theorem cpxMark_ne_ackNeg : cpxMark ≠ ackNeg := by decide

theorem complexHeader_eq_none_iff {r cap : Nat} {b0 b1 : Byte} :
    complexHeader r cap b0 b1 = none ↔ b0 = cpxMark ∧ 1 ≤ b1.toNat ∧ b1.toNat + 3 ≤ r ∧ b1.toNat ≤ cap + 1 := by
  rw [complexHeader_eq]
  split_ifs with hneg hok
  · simp only [false_iff]
    exact fun h => cpxMark_ne_ackNeg (h.1.symm.trans hneg.1)
  · simp only [hok, and_self]
  · simp only [hok]

theorem complexHeader_eq_negative_iff {r cap : Nat} {b0 b1 : Byte} :
    complexHeader r cap b0 b1 = some .negative ↔ b0 = ackNeg ∧ b1 = ackNeg := by
  rw [complexHeader_eq]
  split_ifs with hneg <;> simp [hneg]

/-- What is neither Negative nor accepted is Error. -/
theorem complexHeader_eq_error_iff {r cap : Nat} {b0 b1 : Byte} :
    complexHeader r cap b0 b1 = some .error ↔ ¬ (b0 = ackNeg ∧ b1 = ackNeg) ∧ complexHeader r cap b0 b1 ≠ none := by
  rw [complexHeader_eq]
  split_ifs with hneg <;> simp [hneg]

/-- Rule R101: a buffer of `cap + 4` bytes holds every reply the capacity admits, so the buffer's check refuses nothing more. -/
theorem complexHeader_of_large {r r' cap : Nat} (b0 b1 : Byte) (hr : cap + 4 ≤ r) (hr' : cap + 4 ≤ r') :
    complexHeader r cap b0 b1 = complexHeader r' cap b0 b1 := by
  have hfits : ∀ {q}, cap + 4 ≤ q → ((b1.toNat + 3 ≤ q ∧ b1.toNat ≤ cap + 1) ↔ b1.toNat ≤ cap + 1) := by omega
  simp only [complexHeader_eq, hfits hr, hfits hr']

theorem classifySimple_eq_positive_iff {b0 b1 : Byte} : classifySimple [b0, b1] = .positive ↔ b0 = ackPos ∧ b1 = ackPos := by
  unfold classifySimple
  split_ifs <;> simp_all

theorem classifySimple_eq_negative_iff {b0 b1 : Byte} : classifySimple [b0, b1] = .negative ↔ b0 = ackNeg ∧ b1 = ackNeg := by
  have hne : ackPos ≠ ackNeg := by decide
  unfold classifySimple
  split_ifs <;> simp_all

theorem classifySimple_eq_error_iff {b0 b1 : Byte} :
    classifySimple [b0, b1] = .error ↔ ¬ (b0 = ackPos ∧ b1 = ackPos) ∧ ¬ (b0 = ackNeg ∧ b1 = ackNeg) := by
  unfold classifySimple
  split_ifs <;> simp_all

end Sys2Proof.Machine

namespace Sys2Proof.Proofs

open Sys2Proof Sys2Proof.Machine

/-- Settles O14: the two listed pairs differ, and Error is what is left. -/
theorem simpleClassificationIsExhaustive : Obligations.SimpleClassificationIsExhaustive :=
  fun _ _ => ⟨classifySimple_eq_positive_iff, classifySimple_eq_negative_iff, classifySimple_eq_error_iff⟩

/-- Settles O15: Error is the complement of the Negative pair and the accepted headers. -/
theorem complexHeaderDecides : Obligations.ComplexHeaderDecides := by
  intro r cap b0 b1
  refine ⟨complexHeader_eq_negative_iff, complexHeader_eq_error_iff.trans (and_congr_right fun _ => ?_),
    complexHeader_eq_none_iff⟩
  have hzero : b1 = 0 ↔ b1.toNat = 0 := BitVec.toNat_inj.symm
  rw [Ne, complexHeader_eq_none_iff, hzero, not_and_or]
  refine or_congr Iff.rfl ?_
  omega

/-- Settles O16: both buffers hold every reply that the capacity admits. -/
theorem headerCheckIgnoresLargeBuffers : Obligations.HeaderCheckIgnoresLargeBuffers :=
  fun _ _ _ b0 b1 hr hr' => complexHeader_of_large b0 b1 hr hr'

end Sys2Proof.Proofs
end

section
/-!
PROOFS. What TRANSMIT and the two ack readers can do, said once each (41_frame_encoder.md rules R89 to R91, 42_ack_validator.md rules
R94 to R104): where they wait or return, and the block they leave there; and from it rule R106.
-/
namespace Sys2Proof.Machine

open Sys2Proof

/-! ### What touches the LINK alone -/

/-- From `s` to `t` only the LINK changed, and its streams stay in canonical form. -/
structure LinkOnly (s t : State) : Prop where
  block : t.block = s.block
  port : t.port = s.port
  params : t.params = s.params
  streams : s.link.unread.wf → t.link.unread.wf

theorem LinkOnly.trans {s t u : State} (h : LinkOnly s t) (k : LinkOnly t u) : LinkOnly s u :=
  ⟨k.block.trans h.block, k.port.trans h.port, k.params.trans h.params, k.streams ∘ h.streams⟩

theorem LinkOnly.txSend (f : List Byte) (s : State) : LinkOnly s (txSend f s).2 := by
  obtain ⟨hb, hp, hq, hu, -⟩ := txSend_keeps f s
  exact ⟨hb, hp, hq, fun h => hu ▸ h⟩

theorem LinkOnly.rxRecv (n : Nat) (s : State) : LinkOnly s (rxRecv n s).2 := by
  obtain ⟨hb, hp, hq, -⟩ := rxRecv_keeps n s
  exact ⟨hb, hp, hq, rxRecv_streams⟩

theorem LinkOnly.settleUnread (s : State) : LinkOnly s (settleUnread s) := by
  obtain ⟨hb, hp, hq, -⟩ := settleUnread_keeps s
  exact ⟨hb, hp, hq, settleUnread_streams⟩

/-! ### The send -/

/-- SEND_FRAME after its frame is built waits in TX, ends with TX_INCOMPLETE, or goes on. -/
theorem sendBuilt_cases (s : State) : ∃ t, LinkOnly (s.setPhase .tx) t ∧
    (sendBuilt s = .wait t ∨ sendBuilt s = .ended (finish .txIncomplete t) ∨ sendBuilt s = .go () t) := by
  have hlink := LinkOnly.txSend (s.setPhase .tx).txFrame (s.setPhase .tx)
  generalize hsend : txSend (s.setPhase .tx).txFrame (s.setPhase .tx) = r at hlink
  obtain ⟨_ | k, t⟩ := r
  · exact ⟨t, hlink, .inl (by simp only [sendBuilt, transmit, hsend, Flow.andThen])⟩
  · refine ⟨t, hlink, .inr ?_⟩
    by_cases hk : k < t.block.txLen.getD 0
    · exact .inl (by simp only [sendBuilt, transmit, hsend, if_pos hk, Flow.andThen])
    · exact .inr (by simp only [sendBuilt, transmit, hsend, if_neg hk, Flow.andThen])

/-! ### The first receive -/

/-- The first receive of either reader waits, times out, or brings two bytes. -/
theorem rxHeader_cases (s : State) : ∃ t, LinkOnly (s.setPhase .rxHdr) t ∧
    (rxRecv 2 (settleUnread (s.setPhase .rxHdr)) = (.pending, t) ∨ rxRecv 2 (settleUnread (s.setPhase .rxHdr)) = (.timeout, t) ∨
      ∃ b0 b1, rxRecv 2 (settleUnread (s.setPhase .rxHdr)) = (.ok [b0, b1], t)) := by
  have hlink := (LinkOnly.settleUnread (s.setPhase .rxHdr)).trans (.rxRecv 2 _)
  generalize hrecv : rxRecv 2 (settleUnread (s.setPhase .rxHdr)) = r at hlink
  obtain ⟨_ | _ | bs, t⟩ := r
  · exact ⟨t, hlink, .inl rfl⟩
  · exact ⟨t, hlink, .inr (.inl rfl)⟩
  · obtain ⟨b0, b1, rfl⟩ := List.length_eq_two.1 (rxRecv_ok_length hrecv)
    exact ⟨t, hlink, .inr (.inr ⟨b0, b1, rfl⟩)⟩

/-- READ_SIMPLE_ACK waits in RX_HDR or returns, with the bytes it received stored. -/
theorem readSimpleAck_cases (s : State) : ∃ t, LinkOnly (s.setPhase .rxHdr) t ∧
    (readSimpleAck s = .wait t ∨ readSimpleAck s = .go .error t ∨
      ∃ b0 b1, readSimpleAck s = .go (classifySimple [b0, b1]) (t.storeRx 0 [b0, b1])) := by
  obtain ⟨t, hlink, hr | hr | ⟨b0, b1, hr⟩⟩ := rxHeader_cases s
  · exact ⟨t, hlink, .inl (by simp only [readSimpleAck, hr])⟩
  · exact ⟨t, hlink, .inr (.inl (by simp only [readSimpleAck, hr]))⟩
  · exact ⟨t, hlink, .inr (.inr ⟨b0, b1, by simp only [readSimpleAck, hr]⟩)⟩

/-- READ_COMPLEX_ACK waits in RX_HDR, returns on its first receive, or goes on to the second behind an accepted header. -/
theorem readComplexAck_cases (cap : Nat) (s : State) : ∃ t, LinkOnly (s.setPhase .rxHdr) t ∧
    (readComplexAck cap s = .wait t ∨ readComplexAck cap s = .go .error t ∨
      ∃ b0 b1, (∃ a, readComplexAck cap s = .go a (t.storeRx 0 [b0, b1])) ∨
        (complexHeader s.params.rxBufCap cap b0 b1 = none ∧ readComplexAck cap s = readComplexBody (t.storeRx 0 [b0, b1]))) := by
  obtain ⟨t, hlink, hr | hr | ⟨b0, b1, hr⟩⟩ := rxHeader_cases s
  · exact ⟨t, hlink, .inl (by simp only [readComplexAck, hr])⟩
  · exact ⟨t, hlink, .inr (.inl (by simp only [readComplexAck, hr]))⟩
  · refine ⟨t, hlink, .inr (.inr ⟨b0, b1, ?_⟩)⟩
    have hcap : (t.storeRx 0 [b0, b1]).params.rxBufCap = s.params.rxBufCap := congrArg Params.rxBufCap hlink.params
    cases hh : complexHeader s.params.rxBufCap cap b0 b1 with
    | some a => exact .inl ⟨a, by simp only [readComplexAck, hr, hcap, hh]⟩
    | none => exact .inr ⟨rfl, by simp only [readComplexAck, hr, hcap, hh]⟩

/-! ### The second receive -/

/-- RXBUF holds an accepted header with the length byte `l` (rule R101). -/
structure HeaderHeld (cap : Nat) (l : Byte) (s : State) : Prop where
  mark : s.block.rxBuf.read 0 = some cpxMark
  length : s.block.rxBuf.read 1 = some l
  accepted : complexHeader s.params.rxBufCap cap cpxMark l = none

theorem HeaderHeld.storeRx {cap : Nat} {b0 l : Byte} {s : State} (h : complexHeader s.params.rxBufCap cap b0 l = none) :
    HeaderHeld cap l (s.storeRx 0 [b0, l]) := by
  obtain ⟨rfl, -⟩ := complexHeader_eq_none_iff.1 h
  exact ⟨Buffer.read_writeAll _ 0 0 [cpxMark, l] Nat.zero_lt_two, Buffer.read_writeAll _ 0 1 [cpxMark, l] Nat.one_lt_two, h⟩

/-- The length byte of an accepted header: at least 1, and the reply fits RXBUF and the capacity. -/
theorem HeaderHeld.bounds {cap : Nat} {l : Byte} {s : State} (h : HeaderHeld cap l s) :
    1 ≤ l.toNat ∧ l.toNat + 3 ≤ s.params.rxBufCap ∧ l.toNat ≤ cap + 1 :=
  (complexHeader_eq_none_iff.1 h.accepted).2

/-- The end of READ_COMPLEX_ACK on a reply whose second part is `op`, `p` and the trailing byte `k` (rules R103 and R104). -/
def replyVerdict (l op : Byte) (p : List Byte) (k : Byte) (t : State) : Flow AckOutcome :=
  if checksum (cpxMark :: l :: op :: p) = k then
    .go .positive ((t.storeRx 2 (op :: p ++ [k])).setAck (some l) (some op) p)
  else .go .badChecksum (t.storeRx 2 (op :: p ++ [k]))

/-- A second receive that completes: the covered bytes, the trailing byte and the output slots are read back from RXBUF. -/
theorem readComplexBody_ok {s t : State} {l op k : Byte} {p : List Byte} (hw : s.block.rxBuf.wf)
    (hmark : s.block.rxBuf.read 0 = some cpxMark) (hl : s.block.rxBuf.read 1 = some l) (hp : p.length + 1 = l.toNat)
    (hlink : LinkOnly (s.setPhase .rxBody) t) (hr : rxRecv (l.toNat + 1) (s.setPhase .rxBody) = (.ok (op :: p ++ [k]), t)) :
    readComplexBody s = replyVerdict l op p k t := by
  have hbuf : (t.storeRx 2 (op :: p ++ [k])).block.rxBuf = s.block.rxBuf.writeAll 2 (op :: p ++ [k]) := by
    rw [storeRx_rxBuf, hlink.block, setPhase_rxBuf]
  have hw' := Buffer.writeAll_wf hw 2 (op :: p ++ [k])
  have hin : ∀ {j b}, j < 2 → s.block.rxBuf.read j = some b →
      (s.block.rxBuf.writeAll 2 (op :: p ++ [k])).read j = some b :=
    fun hj h => (Buffer.read_writeAll_other _ _ _ _ (.inl hj)).trans h
  have hnew := fun j hj => Buffer.read_writeAll s.block.rxBuf 2 j (op :: p ++ [k]) hj
  have hop : (s.block.rxBuf.writeAll 2 (op :: p ++ [k])).read 2 = some op := hnew 0 (by simp)
  have htrail : (s.block.rxBuf.writeAll 2 (op :: p ++ [k])).read (l.toNat + 2) = some k := by
    have := hnew (op :: p).length (by simp)
    rw [show l.toNat + 2 = 2 + (op :: p).length by rw [List.length_cons]; omega]
    simpa using this
  have htail : (s.block.rxBuf.writeAll 2 (op :: p ++ [k])).slice 2 (l.toNat + 2) = op :: p := by
    rw [show l.toNat + 2 = 2 + (op :: p).length by rw [List.length_cons]; omega]
    refine Buffer.slice_eq hw' fun j hj => ?_
    rw [hnew j (by simp at hj ⊢; omega), List.getElem_append_left hj]
  have hpay : (s.block.rxBuf.writeAll 2 (op :: p ++ [k])).slice 3 (l.toNat + 2) = p := by
    rw [Buffer.slice_step hw' (by omega) hop] at htail
    exact List.tail_eq_of_cons_eq htail
  have hcovered : (s.block.rxBuf.writeAll 2 (op :: p ++ [k])).slice 0 (l.toNat + 2) = cpxMark :: l :: op :: p := by
    rw [Buffer.slice_step hw' (by omega) (hin Nat.zero_lt_two hmark), Buffer.slice_step hw' (by omega) (hin Nat.one_lt_two hl),
      htail]
  simp only [readComplexBody, declaredLength_of_read hl, hr, hbuf, hcovered, htrail, hpay, hop, hin Nat.one_lt_two hl,
    Option.some.injEq, replyVerdict]

/-- Bytes of a second receive: the echo, the payload and the trailing byte. -/
theorem exists_echo_payload_trailing {n : Nat} {bs : List Byte} (hn : 1 ≤ n) (h : bs.length = n + 1) :
    ∃ op p k, bs = op :: p ++ [k] ∧ p.length + 1 = n := by
  obtain ⟨op, rest, rfl⟩ := List.exists_cons_of_length_eq_add_one h
  have hrest : rest ≠ [] := by rintro rfl; simp at h; omega
  refine ⟨op, rest.dropLast, rest.getLast hrest, ?_, ?_⟩
  · rw [List.cons_append, List.dropLast_append_getLast]
  · rw [List.length_cons] at h
    rw [List.length_dropLast]
    omega

/-- READ_COMPLEX_ACK behind an accepted header waits in RX_BODY, times out, or decides on the whole reply. -/
theorem readComplexBody_cases {cap : Nat} {l : Byte} {s : State} (hw : s.block.rxBuf.wf) (h : HeaderHeld cap l s) :
    ∃ t, LinkOnly (s.setPhase .rxBody) t ∧ (readComplexBody s = .wait t ∨ readComplexBody s = .go .error t ∨
      ∃ op p k, p.length + 1 = l.toNat ∧ readComplexBody s = replyVerdict l op p k t) := by
  have hlink := LinkOnly.rxRecv (l.toNat + 1) (s.setPhase .rxBody)
  have hdecl := declaredLength_of_read h.length
  generalize hrecv : rxRecv (l.toNat + 1) (s.setPhase .rxBody) = r at hlink
  obtain ⟨_ | _ | bs, t⟩ := r
  · exact ⟨t, hlink, .inl (by simp only [readComplexBody, hdecl, hrecv])⟩
  · exact ⟨t, hlink, .inr (.inl (by simp only [readComplexBody, hdecl, hrecv]))⟩
  · obtain ⟨op, p, k, rfl, hp⟩ := exists_echo_payload_trailing h.bounds.1 (rxRecv_ok_length hrecv)
    exact ⟨t, hlink, .inr (.inr ⟨op, p, k, hp, readComplexBody_ok hw h.mark h.length hp hlink hrecv⟩)⟩

/-! ### The buffer and the capacity (rule R106) -/

/-- RXBUF stays inside `RX_BUF_CAP`, and ACK_P is the one of `s` or has at most `cap` bytes. -/
structure InsideBuffer (cap : Nat) (s t : State) : Prop where
  rxBuf : ∀ c ∈ t.block.rxBuf, c.1 < s.params.rxBufCap
  ackP : ∀ p, t.block.ackP = some p → s.block.ackP = some p ∨ p.length ≤ cap

theorem InsideBuffer.linkOnly {cap : Nat} {s t u : State} {p : Phase} (h : InsideBuffer cap s t)
    (hlink : LinkOnly (t.setPhase p) u) : InsideBuffer cap s u := by
  constructor <;> rw [hlink.block]
  · exact h.rxBuf
  · exact h.ackP

theorem InsideBuffer.storeRx {cap i : Nat} {bs : List Byte} {s t : State} (h : InsideBuffer cap s t)
    (hi : i + bs.length ≤ s.params.rxBufCap) : InsideBuffer cap s (t.storeRx i bs) :=
  ⟨Buffer.writeAll_below h.rxBuf hi, h.ackP⟩

theorem replyVerdict_inside {cap : Nat} {l op k : Byte} {p : List Byte} {s t : State} (h : InsideBuffer cap s t)
    (hp : p.length + 1 = l.toNat) (hl : l.toNat + 3 ≤ s.params.rxBufCap) (hcap : l.toNat ≤ cap + 1) :
    InsideBuffer cap s (replyVerdict l op p k t).state := by
  have hstored : InsideBuffer cap s (t.storeRx 2 (op :: p ++ [k])) := h.storeRx (by simp; omega)
  unfold replyVerdict
  split_ifs
  · refine ⟨hstored.rxBuf, fun q hq => .inr ?_⟩
    obtain rfl : p = q := Option.some.inj hq
    omega
  · exact hstored

theorem readComplexAck_inside (cap : Nat) {s : State} (h : StoreInv s) : InsideBuffer cap s (readComplexAck cap s).state := by
  have hsize : 2 ≤ s.params.rxBufCap := le_trans (by decide) h.params.1
  obtain ⟨t, hlink, hcases⟩ := readComplexAck_cases cap s
  have ht : InsideBuffer cap s t := InsideBuffer.linkOnly ⟨h.rx_within, fun _ => .inl⟩ hlink
  obtain hr | hr | ⟨b0, b1, ⟨a, hr⟩ | ⟨hnone, hr⟩⟩ := hcases <;> rw [hr]
  · exact ht
  · exact ht
  · exact ht.storeRx (by simpa using hsize)
  · have hparams : (t.storeRx 0 [b0, b1]).params = s.params := hlink.params
    have hheld : HeaderHeld cap b1 (t.storeRx 0 [b0, b1]) := .storeRx (by rw [hlink.params]; exact hnone)
    have hw : (t.storeRx 0 [b0, b1]).block.rxBuf.wf := Buffer.writeAll_wf (by rw [hlink.block]; exact h.rx_wf) 0 _
    obtain ⟨-, hl, hcap⟩ := hheld.bounds
    rw [hparams] at hl
    have hstored : InsideBuffer cap s (t.storeRx 0 [b0, b1]) := ht.storeRx (by simpa using hsize)
    obtain ⟨u, hlink', hcases'⟩ := readComplexBody_cases hw hheld
    have hu : InsideBuffer cap s u := hstored.linkOnly hlink'
    obtain hr' | hr' | ⟨op, p, k, hp, hr'⟩ := hcases' <;> rw [hr']
    · exact hu
    · exact hu
    · exact replyVerdict_inside hu hp hl hcap

end Sys2Proof.Machine

namespace Sys2Proof.Proofs

open Sys2Proof Sys2Proof.Machine

/-- Settles O18: the header checks bound the second receive by the buffer and by the capacity. -/
theorem complexAckNeverOverruns : Obligations.ComplexAckNeverOverruns := by
  intro cap s h
  obtain ⟨hbuf, hack⟩ := readComplexAck_inside cap h
  have hbelow := (writesBelow_kept (cap + 4) s).readComplexAck (cap := cap) le_rfl ⟨rfl, fun _ _ => rfl⟩
  exact ⟨hbuf, hbelow.rxBuf, hack⟩

end Sys2Proof.Proofs
end

section
/-!
PROOFS. The invariant across a step: what holds inside a command whatever its PHASE, what each place where it may rest adds to it,
and the host's accesses and the reset event, which keep it.
-/
namespace Sys2Proof.Machine

open Sys2Proof

/-! ### States outside a command -/

/-- An idle block has no operation in progress of which anything must hold. -/
theorem opInv_of_idle {s : State} (hb : s.block.busy = false) (hp : s.block.phase = .idle)
    (hslots : ∀ p, s.block.ackP = some p → p.length ≤ 4 ∧ ∃ l, s.block.ackL = some l ∧ l.toNat = p.length + 1) : OpInv s where
  current h := by simp [hb] at h
  sending h := by simp [hp] at h
  body h := by simp [hp] at h
  slots := hslots

theorem phase_of_idle {s : State} (h : Inv s) (hb : s.block.busy = false) : s.block.phase = .idle := by
  by_contra hp
  simp [h.reg.busy_iff.2 hp] at hb

/-- Of the LINK the invariant asks only that its streams are in canonical form. -/
theorem inv_linkOnly {s t : State} (h : Inv s) (hl : LinkOnly s t) : Inv t := by
  obtain ⟨b, l, q, r⟩ := s
  obtain ⟨b', l', q', r'⟩ := t
  obtain ⟨rfl, rfl, rfl, hu⟩ := hl
  exact ⟨{ h.reg with }, { h.op with }, { h.store with streams := hu h.store.streams }⟩

theorem inv_raise {s : State} (h : Inv s) (r : Fault) : Inv (raise r s) := ⟨{ h.reg with }, { h.op with }, { h.store with }⟩

theorem inv_setRdata {s : State} (h : Inv s) (r : ReadReg) (v : Half) : Inv (s.setRdata r v) :=
  ⟨{ h.reg with }, { h.op with }, { h.store with }⟩

/-- Rule R110: BIND writes the endpoint and BOUND together. -/
theorem inv_setBinding {s : State} (h : Inv s) (hb : s.block.busy = false) {ep : Nat} (hep : ep < 2 ^ s.params.epWidth) :
    Inv (s.setBinding ep) := by
  have hp := phase_of_idle h hb
  exact
    { reg := { h.reg with
        bound_iff := by simp
        ep_fits := fun e he => Option.some.inj he ▸ hep }
      op := opInv_of_idle hb hp h.op.slots
      store := { h.store with } }

theorem resetLink_streams {s : State} (left : List Byte) (h : s.link.unread.wf) : (resetLink left s).unread.wf := by
  unfold resetLink
  cases s.block.busy with
  | true => exact unreadSet_wf h left
  | false => exact h

/-- Rules R144 and R145: the reset values meet the invariant, whatever the reset event leaves unread. -/
theorem inv_takeReset {s : State} (h : Inv s) (left : List Byte) : Inv (takeReset left s) where
  reg := by constructor <;> simp [Block.reset]
  op := opInv_of_idle rfl rfl (by simp [Block.reset])
  store :=
    { tx_wf := Buffer.wf_reset
      tx_within := by simp [Block.reset]
      rx_wf := Buffer.wf_reset
      rx_within := by simp [Block.reset]
      streams := resetLink_streams left h.store.streams
      params := h.store.params }

/-! ### States inside a command -/

/-- The state with PHASE and STAT.BUSY put back to idle. -/
def State.atRest (s : State) : State := { s with block := { s.block with busy := false, phase := .idle } }

/-- What holds inside the command with this request in every PHASE: the block is bound and busy, the request is latched, and all
that the invariant says apart from PHASE. -/
structure Running (opc arg : Byte) (s : State) : Prop where
  atRest : Inv s.atRest
  busy : s.block.busy = true
  bound : s.block.bound = true
  curOp : s.block.curOp = some opc
  curArg : s.block.curArg = some arg
  opcode : opc ∈ commandOpcodes

/-- What else holds where the ENGINE is in this PHASE: in TX the command's frame is in TXBUF, and in RX_BODY, where only a data
command comes, an accepted header is in RXBUF (rules R92 and R101). -/
structure AtPhase (opc arg : Byte) (p : Phase) (s : State) : Prop where
  resting : p = .tx ∨ p = .rxHdr ∨ p = .rxBody
  sending : p = .tx → s.block.txLen = some (commandFrame opc arg).length ∧ s.txFrame = commandFrame opc arg
  body : p = .rxBody → ∃ cap l, dataCapacity opc = some cap ∧ HeaderHeld cap l s

section
variable {opc arg : Byte} {s t : State}

theorem Running.setPhase (h : Running opc arg s) (p : Phase) : Running opc arg (s.setPhase p) := { h with atRest := h.atRest }

theorem Running.linkOnly (h : Running opc arg s) (hl : LinkOnly s t) : Running opc arg t where
  atRest := inv_linkOnly h.atRest ⟨by simp only [State.atRest, hl.block], hl.port, hl.params, hl.streams⟩
  busy := hl.block ▸ h.busy
  bound := hl.block ▸ h.bound
  curOp := hl.block ▸ h.curOp
  curArg := hl.block ▸ h.curArg
  opcode := h.opcode

theorem Running.storeRx (h : Running opc arg s) {i : Nat} {bs : List Byte} (hi : i + bs.length ≤ s.params.rxBufCap) :
    Running opc arg (s.storeRx i bs) where
  atRest :=
    { reg := { h.atRest.reg with }
      op := opInv_of_idle rfl rfl h.atRest.op.slots
      store := { h.atRest.store with
        rx_wf := Buffer.writeAll_wf h.atRest.store.rx_wf i bs
        rx_within := Buffer.writeAll_below h.atRest.store.rx_within hi } }
  busy := h.busy
  bound := h.bound
  curOp := h.curOp
  curArg := h.curArg
  opcode := h.opcode

theorem Running.setAck (h : Running opc arg s) {l : Byte} (op : Option Byte) {p : List Byte} (hl : p.length + 1 = l.toNat)
    (hp : p.length ≤ 4) : Running opc arg (s.setAck (some l) op p) where
  atRest :=
    { reg := { h.atRest.reg with }
      op := opInv_of_idle rfl rfl fun q hq => by
        obtain rfl : p = q := Option.some.inj hq
        exact ⟨hp, l, rfl, hl.symm⟩
      store := { h.atRest.store with } }
  busy := h.busy
  bound := h.bound
  curOp := h.curOp
  curArg := h.curArg
  opcode := h.opcode

/-- Rule R151: the two concentrations are written together. -/
theorem Running.setResults (h : Running opc arg s) (fine coarse : Half) : Running opc arg (s.setResults fine coarse) where
  atRest :=
    { reg := { h.atRest.reg with pair := by simp [State.atRest] }
      op := opInv_of_idle rfl rfl h.atRest.op.slots
      store := { h.atRest.store with } }
  busy := h.busy
  bound := h.bound
  curOp := h.curOp
  curArg := h.curArg
  opcode := h.opcode

theorem Running.setCoeff (h : Running opc arg s) (v : Byte) : Running opc arg (s.setCoeff v) where
  atRest :=
    { reg := { h.atRest.reg with }
      op := opInv_of_idle rfl rfl h.atRest.op.slots
      store := { h.atRest.store with } }
  busy := h.busy
  bound := h.bound
  curOp := h.curOp
  curArg := h.curArg
  opcode := h.opcode

theorem statusCode_le_five (st : Status) : (statusCode st).toNat ≤ 5 := by cases st <;> decide

/-- A command that ends leaves an idle block, with a legal CODE. -/
theorem Running.finish (h : Running opc arg s) (st : Status) : Inv (finish st s) where
  reg := { h.atRest.reg with code_legal := fun _ hc => Option.some.inj hc ▸ statusCode_le_five st }
  op := opInv_of_idle rfl rfl h.atRest.op.slots
  store := { h.atRest.store with }

/-- A command may rest where what its PHASE says holds. -/
theorem Running.inv (h : Running opc arg s) (hp : AtPhase opc arg s.block.phase s) : Inv s where
  reg :=
    { h.atRest.reg with
      busy_iff := by
        have hidle : s.block.phase ≠ .idle := by rcases hp.resting with h | h | h <;> simp [h]
        exact ⟨fun _ => hidle, fun _ => h.busy⟩
      no_build := by rcases hp.resting with h | h | h <;> simp [h]
      no_check := by rcases hp.resting with h | h | h <;> simp [h] }
  op :=
    { current := fun _ => ⟨h.bound, opc, arg, h.curOp, h.curArg, h.opcode⟩
      sending := fun ht opc' arg' ho ha => by
        obtain rfl : opc = opc' := Option.some.inj (h.curOp.symm.trans ho)
        obtain rfl : arg = arg' := Option.some.inj (h.curArg.symm.trans ha)
        exact hp.sending ht
      body := fun hb => by
        obtain ⟨cap, l, hd, hheld⟩ := hp.body hb
        exact ⟨opc, cap, l, h.curOp, hd, hheld.mark, hheld.length, hheld.accepted⟩
      slots := h.atRest.op.slots }
  store := { h.atRest.store with }

/-- The frame is in TXBUF and the ENGINE is in TX. -/
theorem atPhase_tx (hl : s.block.txLen = some (commandFrame opc arg).length) (hf : s.txFrame = commandFrame opc arg) :
    AtPhase opc arg .tx s :=
  ⟨.inl rfl, fun _ => ⟨hl, hf⟩, nofun⟩

theorem atPhase_rxHdr : AtPhase opc arg .rxHdr s := ⟨.inr (.inl rfl), nofun, nofun⟩

theorem atPhase_rxBody {cap : Nat} {l : Byte} (hd : dataCapacity opc = some cap) (h : HeaderHeld cap l s) :
    AtPhase opc arg .rxBody s :=
  ⟨.inr (.inr rfl), nofun, fun _ => ⟨cap, l, hd, h⟩⟩

/-- Where a call of the LINK has not been answered, the command may rest: the LINK's answers do not touch what its PHASE says. -/
theorem Running.inv_of_wait {p : Phase} (h : Running opc arg s) (hp : AtPhase opc arg p s) (hl : LinkOnly (s.setPhase p) t) :
    Inv t :=
  inv_linkOnly ((h.setPhase p).inv ⟨hp.resting, hp.sending, fun hb => by
    obtain ⟨cap, l, hd, hheld⟩ := hp.body hb
    exact ⟨cap, l, hd, { hheld with }⟩⟩) hl

/-- The reverse of `Running.inv`: under the invariant a busy block is inside the command it has latched. -/
theorem running_of_busy (h : Inv s) (hb : s.block.busy = true) :
    ∃ opc arg, Running opc arg s ∧ AtPhase opc arg s.block.phase s := by
  obtain ⟨hn, opc, arg, ho, ha, hm⟩ := h.op.current hb
  refine ⟨opc, arg, ⟨⟨?_, opInv_of_idle rfl rfl h.op.slots, { h.store with }⟩, hb, hn, ho, ha, hm⟩, ?_, fun ht => ?_, fun hp => ?_⟩
  · exact { h.reg with busy_iff := by simp [State.atRest], no_build := by simp [State.atRest], no_check := by simp [State.atRest] }
  · cases hp : s.block.phase with
    | tx => exact .inl rfl
    | rxHdr => exact .inr (.inl rfl)
    | rxBody => exact .inr (.inr rfl)
    | idle => exact absurd hp (h.reg.busy_iff.1 hb)
    | build => exact absurd hp h.reg.no_build
    | check => exact absurd hp h.reg.no_check
  · exact h.op.sending ht opc arg ho ha
  · obtain ⟨opc', cap, l, ho', hd, hmark, hlen, hacc⟩ := h.op.body hp
    obtain rfl : opc = opc' := Option.some.inj (ho.symm.trans ho')
    exact ⟨cap, l, hd, hmark, hlen, hacc⟩

end

/-! ### The parts of a command -/

/-- A part of a command rests or ends only where the invariant holds, and returns only where `Q` does. -/
def Flow.Sound {α : Type} (Q : State → Prop) : Flow α → Prop
  | .wait s => Inv s
  | .ended s => Inv s
  | .go _ s => Q s

theorem Flow.Sound.andThen {α β : Type} {Q R : State → Prop} {f : Flow α} {k : α → State → Flow β} (hf : f.Sound Q)
    (hk : ∀ a t, Q t → (k a t).Sound R) : (f.andThen k).Sound R := by
  cases f with
  | wait t => exact hf
  | ended t => exact hf
  | go a t => exact hk a t hf

theorem Flow.Sound.inv {α : Type} {f : Flow α} (hf : f.Sound Inv) : Inv f.state := by
  cases f with
  | wait t => exact hf
  | ended t => exact hf
  | go a t => exact hf

section
variable {opc arg : Byte} {s : State}

theorem sendBuilt_sound (h : Running opc arg s) (hp : AtPhase opc arg .tx s) : (sendBuilt s).Sound (Running opc arg) := by
  obtain ⟨t, hlink, hr | hr | hr⟩ := sendBuilt_cases s <;> rw [hr]
  · exact h.inv_of_wait hp hlink
  · exact ((h.setPhase .tx).linkOnly hlink).finish _
  · exact (h.setPhase .tx).linkOnly hlink

/-- Every legal RXBUF holds the first two bytes of a reply (rule R7). -/
theorem Running.storeHeader (h : Running opc arg s) (b0 b1 : Byte) : Running opc arg (s.storeRx 0 [b0, b1]) :=
  h.storeRx (le_trans (show 2 ≤ 8 by decide) h.atRest.store.params.1)

theorem readSimpleAck_sound (h : Running opc arg s) : (readSimpleAck s).Sound (Running opc arg) := by
  obtain ⟨t, hlink, hr | hr | ⟨b0, b1, hr⟩⟩ := readSimpleAck_cases s <;> rw [hr]
  · exact h.inv_of_wait atPhase_rxHdr hlink
  · exact (h.setPhase .rxHdr).linkOnly hlink
  · exact ((h.setPhase .rxHdr).linkOnly hlink).storeHeader b0 b1

theorem replyVerdict_sound {l op k : Byte} {p : List Byte} (h : Running opc arg s) (hp : p.length + 1 = l.toNat)
    (hl : l.toNat + 3 ≤ s.params.rxBufCap) (hlen : p.length ≤ 4) : (replyVerdict l op p k s).Sound (Running opc arg) := by
  have hstored : Running opc arg (s.storeRx 2 (op :: p ++ [k])) := h.storeRx (by simp; omega)
  unfold replyVerdict
  split_ifs
  · exact hstored.setAck (some op) hp hlen
  · exact hstored

/-- The capacity of both data commands is at most that of READ_RESULTS (rule R7). -/
theorem dataCapacity_le {opc : Byte} {cap : Nat} (h : dataCapacity opc = some cap) : cap ≤ 4 := by
  unfold dataCapacity at h
  split_ifs at h <;> cases h <;> decide

theorem readComplexBody_sound {cap : Nat} {l : Byte} (h : Running opc arg s) (hd : dataCapacity opc = some cap)
    (hheld : HeaderHeld cap l s) : (readComplexBody s).Sound (Running opc arg) := by
  obtain ⟨-, hfits, hcap⟩ := hheld.bounds
  obtain ⟨t, hlink, hcases⟩ := readComplexBody_cases (s := s) h.atRest.store.rx_wf hheld
  have ht : Running opc arg t := (h.setPhase .rxBody).linkOnly hlink
  obtain hr | hr | ⟨op, p, k, hp, hr⟩ := hcases <;> rw [hr]
  · exact h.inv_of_wait (atPhase_rxBody hd hheld) hlink
  · exact ht
  · have hmax := dataCapacity_le hd
    exact replyVerdict_sound ht hp (by rw [hlink.params]; exact hfits) (by omega)

theorem readComplexAck_sound {cap : Nat} (h : Running opc arg s) (hd : dataCapacity opc = some cap) :
    (readComplexAck cap s).Sound (Running opc arg) := by
  obtain ⟨t, hlink, hcases⟩ := readComplexAck_cases cap s
  have ht : Running opc arg t := (h.setPhase .rxHdr).linkOnly hlink
  obtain hr | hr | ⟨b0, b1, ⟨a, hr⟩ | ⟨hnone, hr⟩⟩ := hcases <;> rw [hr]
  · exact h.inv_of_wait atPhase_rxHdr hlink
  · exact ht
  · exact ht.storeHeader b0 b1
  · exact readComplexBody_sound (ht.storeHeader b0 b1) hd (.storeRx (by rw [hlink.params]; exact hnone))

theorem simpleCheck_sound (h : Running opc arg s) (a : AckOutcome) : (simpleCheck a s).Sound Inv :=
  (h.setPhase .check).finish _

theorem complexCheck_sound (h : Running opc arg s) (expLen : Nat) (a : AckOutcome) :
    (complexCheck opc expLen a s).Sound (Running opc arg) := by
  have hc := h.setPhase .check
  unfold complexCheck
  cases a with
  | negative => exact hc.finish _
  | badChecksum => exact hc.finish _
  | error => exact hc.finish _
  | positive =>
    dsimp only
    split
    · split_ifs
      · exact hc
      · exact hc.finish _
    · exact hc.finish _

theorem deliver_sound (h : Running opc arg s) (p : List Byte) : (deliver opc p s).Sound Inv := by
  unfold deliver
  split_ifs
  · unfold deliverResults
    split
    · exact (h.setResults _ _).finish _
    · exact h.finish _
  · unfold deliverCoeff
    split
    · exact (h.setCoeff _).finish _
    · exact h.finish _

/-! ### The whole command, from a PHASE on -/

theorem simpleReply_sound (h : Running opc arg s) : ((readSimpleAck s).andThen simpleCheck).Sound Inv :=
  (readSimpleAck_sound h).andThen fun a _ ht => simpleCheck_sound ht a

theorem complexReply_sound {cap : Nat} (h : Running opc arg s) (hd : dataCapacity opc = some cap) :
    ((readComplexAck cap s).andThen (complexCheck opc cap)).Sound (Running opc arg) :=
  (readComplexAck_sound h hd).andThen fun a _ ht => complexCheck_sound ht cap a

theorem runSimple_sound (n : Nat) (pay : Option (List Byte)) {p : Phase} (h : Running opc arg s) (hd : dataCapacity opc = none)
    (hp : AtPhase opc arg p s) : (runSimple opc n pay p s).Sound Inv := by
  obtain rfl | rfl | rfl := hp.resting
  · exact (sendBuilt_sound h hp).andThen fun _ _ ht => simpleReply_sound ht
  · exact simpleReply_sound h
  · obtain ⟨cap, l, hd', -⟩ := hp.body rfl
    simp [hd] at hd'

theorem runComplex_sound {cap : Nat} {p : Phase} (h : Running opc arg s) (hd : dataCapacity opc = some cap)
    (hp : AtPhase opc arg p s) : (runComplex opc cap cap p s).Sound (Running opc arg) := by
  obtain rfl | rfl | rfl := hp.resting
  · exact (sendBuilt_sound h hp).andThen fun _ _ ht => complexReply_sound ht hd
  · exact complexReply_sound h hd
  · obtain ⟨cap', l, hd', hheld⟩ := hp.body rfl
    exact (readComplexBody_sound h hd' hheld).andThen fun a _ ht => complexCheck_sound ht cap a

theorem bodyOf_inv {p : Phase} (h : Running opc arg s) (hp : AtPhase opc arg p s) : Inv (bodyOf opc p s) := by
  cases hd : dataCapacity opc with
  | none =>
    rw [bodyOf_simple h.opcode hd]
    exact (runSimple_sound _ _ h hd hp).inv
  | some cap =>
    rw [bodyOf_data hd]
    exact ((runComplex_sound h hd hp).andThen fun q _ ht => deliver_sound ht q).inv

end

/-! ### The step -/

theorem resume_inv {s : State} (h : Inv s) : Inv (resume s) := by
  cases hb : s.block.busy with
  | false => rwa [resume_of_idle hb]
  | true =>
    obtain ⟨opc, arg, hrun, hp⟩ := running_of_busy h hb
    rw [(resume_of_busy h hb hrun.curOp).1]
    exact bodyOf_inv hrun hp

theorem commandFrame_length_le (opc arg : Byte) : (commandFrame opc arg).length ≤ 5 := by
  unfold commandFrame
  split_ifs <;> simp [length_frameBytes, payloadBytes]

/-- A command that starts on an idle, bound block has its request latched and its frame built. -/
theorem running_started {opc arg : Byte} {s : State} (h : Inv s) (hn : s.block.bound = true) (hm : opc ∈ commandOpcodes) :
    Running opc arg (s.started opc arg) where
  atRest :=
    { reg := { h.reg with
        busy_iff := by simp [State.atRest]
        no_build := by simp [State.atRest]
        no_check := by simp [State.atRest] }
      op := opInv_of_idle rfl rfl h.op.slots
      store := { h.store with
        tx_wf := Buffer.writeAll_wf h.store.tx_wf 0 _
        tx_within := Buffer.writeAll_below h.store.tx_within (by
          have := commandFrame_length_le opc arg
          rw [txBufSize, maxTxPayload]
          omega) } }
  busy := rfl
  bound := hn
  curOp := rfl
  curArg := rfl
  opcode := hm

theorem exec_inv {i : Instr} {s t : State} (h : Inv s) (hw : i.wellFormed s.params = true) (ht : exec i s = .next t) : Inv t := by
  obtain ⟨-, ⟨r, rfl⟩ | ⟨opc, arg, -, hn, hm, rfl⟩ | ⟨ep, rfl, hb, rfl⟩ | ⟨r, v, -, -, rfl⟩⟩ := exec_next ht
  · exact inv_raise h r
  · rw [bodyOf_build_latch hm]
    exact bodyOf_inv (running_started h hn hm) (atPhase_tx rfl (txFrame_setFrame h.store.tx_wf _))
  · exact inv_setBinding h hb (of_decide_eq_true hw)
  · exact inv_setRdata h r v

end Sys2Proof.Machine

namespace Sys2Proof.Proofs

open Sys2Proof Sys2Proof.Machine

/-- Settles O45: a step resets, goes on with the command in progress, runs an operation or raises a fault, and each keeps the
invariant. -/
theorem everyStepKeepsTheInvariant : Obligations.EveryStepKeepsTheInvariant := by
  intro s t h ht
  obtain ⟨left, es, -, rfl⟩ | ⟨es, -, -, rfl⟩ | ⟨a, i, es, -, -, hw, hx⟩ | ⟨a, es, r, -, -, rfl⟩ := step_next ht
  · exact inv_takeReset (inv_setInbox h es) left
  · exact resume_inv (inv_setInbox h es)
  · exact exec_inv (inv_setInbox h es) hw hx
  · exact inv_raise (inv_setInbox h es) r

end Sys2Proof.Proofs
end

section
/-!
PROOFS. An exchange on listed draws (43_commands.md section 2): the whole frame sent, the first receive and the second, each with the
answer listed for it; and the ends of a command that follow.
-/
namespace Sys2Proof.Machine

open Sys2Proof

/-! ### A receive with a listed answer (rules R43 and R47) -/

/-- A receive of `n` bytes from this stream completes in time. -/
abbrev Completes (n : Nat) (stream : List Byte) (a : RxAnswer) : Prop := a.inTime = true ∧ n ≤ stream.length

/-- What a receive of `n` bytes gives the ENGINE. -/
def recvResult (n : Nat) (stream : List Byte) (a : RxAnswer) : RxResult :=
  if Completes n stream a then .ok (stream.take n) else .timeout

/-- How many bytes of the stream a receive of `n` bytes consumes. -/
def recvCount (n : Nat) (stream : List Byte) (a : RxAnswer) : Nat :=
  if Completes n stream a then n else min a.lost (n - 1)

/-- The link call that a receive of `n` bytes is. -/
def recvCall (ep : Option Nat) (n : Nat) (stream : List Byte) (a : RxAnswer) : LinkCall :=
  if Completes n stream a then .rxOk ep (stream.take n) else .rxTimeout ep n (stream.take (min a.lost (n - 1)))

theorem rxAnswer_eq (n : Nat) (a : RxAnswer) (s : State) :
    rxAnswer n a s = (recvResult n (s.unread ++ a.arrived) a, s.setLink { s.link with
      unread := s.unreadSet ((s.unread ++ a.arrived).drop (recvCount n (s.unread ++ a.arrived) a))
      log := s.link.log ++ [recvCall s.block.ep n (s.unread ++ a.arrived) a] }) := by
  unfold rxAnswer recvResult recvCount recvCall
  by_cases h : Completes n (s.unread ++ a.arrived) a
  · simp only [if_pos h]
  · simp only [if_neg h]

/-- What a receive needs of the state: canonical streams and RXBUF, and a bound endpoint. -/
structure Receivable (s : State) : Prop where
  streams : s.link.unread.wf
  rxBuf : s.block.rxBuf.wf
  ep : s.block.ep ≠ none

/-- From `s` to `t` the LINK answered one receive, logged as `c`: the draws `rs` and the unread bytes `left` remain. -/
structure Received (rs : List RxDraw) (c : LinkCall) (left : List Byte) (s t : State) : Prop where
  txDraws : t.link.txDraws = s.link.txDraws
  rxDraws : t.link.rxDraws = rs
  log : t.link.log = s.link.log ++ [c]
  unread : t.unread = left

/-- The bound endpoint's bytes, once replaced, are the new ones. -/
theorem unread_eq_of_unreadSet {s t : State} {bs : List Byte} (h : Receivable s) (he : t.block.ep = s.block.ep)
    (hu : t.link.unread = s.unreadSet bs) : t.unread = bs := by
  obtain ⟨ep, hep⟩ := Option.ne_none_iff_exists'.1 h.ep
  rw [State.unreadSet, hep] at hu
  rw [State.unread, he, hep, hu]
  exact Streams.get_set_same h.streams ep bs

theorem rxRecv_answered {n : Nat} {a : RxAnswer} {rs : List RxDraw} {s : State} (h : Receivable s)
    (hd : s.link.rxDraws = .answer a :: rs) :
    ∃ t, rxRecv n s = (recvResult n (s.unread ++ a.arrived) a, t) ∧ LinkOnly s t ∧
      Received rs (recvCall s.block.ep n (s.unread ++ a.arrived) a)
        ((s.unread ++ a.arrived).drop (recvCount n (s.unread ++ a.arrived) a)) s t := by
  have hr : rxRecv n s = rxAnswer n a (s.setLink { s.link with rxDraws := rs }) := by simp only [rxRecv, Link.nextRx, hd]
  have hlink := LinkOnly.rxRecv n s
  rw [hr, rxAnswer_eq] at hlink ⊢
  exact ⟨_, rfl, hlink, rfl, rfl, rfl, unread_eq_of_unreadSet h rfl rfl⟩

/-! ### The first receive -/

/-- Rule R47: what an operation's first receive finds unread. -/
theorem unread_settleUnread {s : State} (h : Receivable s) :
    (settleUnread s).unread = if s.params.linkRetainsUnread = true then s.unread else [] := by
  unfold settleUnread
  split_ifs
  · rfl
  · exact unread_eq_of_unreadSet h rfl rfl

theorem rxHeader_answered {a : RxAnswer} {rs : List RxDraw} {s : State} (h : Receivable s)
    (hd : s.link.rxDraws = .answer a :: rs) :
    ∃ t, rxRecv 2 (settleUnread (s.setPhase .rxHdr)) = (recvResult 2 (firstStream s a) a, t) ∧
      LinkOnly (s.setPhase .rxHdr) t ∧
      Received rs (firstCall s a) ((firstStream s a).drop (recvCount 2 (firstStream s a) a)) s t := by
  have hphase : Receivable (s.setPhase .rxHdr) := { h with }
  have hlink := LinkOnly.settleUnread (s.setPhase .rxHdr)
  obtain ⟨hb, -, -, htx, hrx, -, hlog⟩ := settleUnread_keeps (s.setPhase .rxHdr)
  have hsettled : Receivable (settleUnread (s.setPhase .rxHdr)) :=
    ⟨hlink.streams h.streams, hb ▸ h.rxBuf, hb ▸ h.ep⟩
  obtain ⟨t, hr, hlink', hrecv⟩ := rxRecv_answered (n := 2) hsettled (hrx.trans hd)
  have hstream : (settleUnread (s.setPhase .rxHdr)).unread ++ a.arrived = firstStream s a := by
    rw [unread_settleUnread hphase]
    rfl
  have hcall : recvCall (settleUnread (s.setPhase .rxHdr)).block.ep 2 (firstStream s a) a = firstCall s a := by
    rw [hb]
    rfl
  rw [hstream, hcall] at hrecv
  rw [hstream] at hr
  exact ⟨t, hr, hlink.trans hlink', hrecv.txDraws.trans htx, hrecv.rxDraws, hrecv.log.trans (by rw [hlog]; rfl), hrecv.unread⟩

/-- What READ_SIMPLE_ACK returns on the listed answer (rule R94). -/
def simpleOutcome (s : State) (a : RxAnswer) : AckOutcome :=
  if Completes 2 (firstStream s a) a then classifySimple ((firstStream s a).take 2) else .error

theorem readSimpleAck_answered {a : RxAnswer} {rs : List RxDraw} {s : State} (h : Receivable s)
    (hd : s.link.rxDraws = .answer a :: rs) :
    ∃ t, readSimpleAck s = .go (simpleOutcome s a) t ∧
      Received rs (firstCall s a) ((firstStream s a).drop (recvCount 2 (firstStream s a) a)) s t := by
  obtain ⟨t, hr, -, hrecv⟩ := rxHeader_answered h hd
  by_cases hc : Completes 2 (firstStream s a) a
  · rw [recvResult, if_pos hc] at hr
    exact ⟨t.storeRx 0 ((firstStream s a).take 2), by simp only [readSimpleAck, hr, simpleOutcome, if_pos hc], { hrecv with }⟩
  · rw [recvResult, if_neg hc] at hr
    exact ⟨t, by simp only [readSimpleAck, hr, simpleOutcome, if_neg hc], hrecv⟩

/-- A first receive that times out ends READ_COMPLEX_ACK with Error (rule R98). -/
theorem readComplexAck_timeout (cap : Nat) {a : RxAnswer} {rs : List RxDraw} {s : State} (h : Receivable s)
    (hd : s.link.rxDraws = .answer a :: rs) (hc : ¬ Completes 2 (firstStream s a) a) :
    ∃ t left, readComplexAck cap s = .go .error t ∧ Received rs (firstCall s a) left s t := by
  obtain ⟨t, hr, -, hrecv⟩ := rxHeader_answered h hd
  rw [recvResult, if_neg hc] at hr
  exact ⟨t, _, by simp only [readComplexAck, hr], hrecv⟩

/-- After a first receive that completes, the header check decides (rules R99 to R101). -/
theorem readComplexAck_header (cap : Nat) {a : RxAnswer} {rs : List RxDraw} {s : State} {b0 b1 : Byte} {r : List Byte}
    (h : Receivable s) (hd : s.link.rxDraws = .answer a :: rs) (hin : a.inTime = true)
    (hs : firstStream s a = b0 :: b1 :: r) :
    ∃ t, LinkOnly (s.setPhase .rxHdr) t ∧ Received rs (firstCall s a) r s t ∧
      (∀ o, complexHeader s.params.rxBufCap cap b0 b1 = some o → readComplexAck cap s = .go o (t.storeRx 0 [b0, b1])) ∧
      (complexHeader s.params.rxBufCap cap b0 b1 = none → readComplexAck cap s = readComplexBody (t.storeRx 0 [b0, b1])) := by
  obtain ⟨t, hr, hlink, hrecv⟩ := rxHeader_answered h hd
  have hc : Completes 2 (b0 :: b1 :: r) a := ⟨hin, by simp⟩
  rw [hs, recvCount, if_pos hc] at hrecv
  rw [hs, recvResult, if_pos hc] at hr
  have hcap : (t.storeRx 0 [b0, b1]).params.rxBufCap = s.params.rxBufCap := congrArg Params.rxBufCap hlink.params
  exact ⟨t, hlink, hrecv, fun o ho => by simp only [readComplexAck, hr, List.take, hcap, ho],
    fun ho => by simp only [readComplexAck, hr, List.take, hcap, ho]⟩

/-! ### The second receive -/

section
variable {cap : Nat} {l : Byte} {a : RxAnswer} {rs : List RxDraw} {s : State}

/-- A second receive that times out ends READ_COMPLEX_ACK with Error (rule R102). -/
theorem readComplexBody_timeout (h : Receivable s) (hheld : HeaderHeld cap l s) (hd : s.link.rxDraws = .answer a :: rs)
    (hc : ¬ Completes (l.toNat + 1) (s.unread ++ a.arrived) a) :
    ∃ t, readComplexBody s = .go .error t ∧ t.link.rxDraws = rs := by
  obtain ⟨t, hr, -, hrecv⟩ := rxRecv_answered (n := l.toNat + 1) (s := s.setPhase .rxBody) { h with } hd
  rw [unread_setPhase, recvResult, if_neg hc] at hr
  exact ⟨t, by simp only [readComplexBody, declaredLength_of_read hheld.length, hr], hrecv.rxDraws⟩

/-- A second receive that completes is decided on the whole reply (rules R103 and R104). -/
theorem readComplexBody_reply {op k : Byte} {p left : List Byte} (h : Receivable s) (hheld : HeaderHeld cap l s)
    (hd : s.link.rxDraws = .answer a :: rs) (hin : a.inTime = true) (hs : s.unread ++ a.arrived = op :: p ++ k :: left)
    (hp : p.length + 1 = l.toNat) :
    ∃ t, readComplexBody s = replyVerdict l op p k t ∧ LinkOnly (s.setPhase .rxBody) t ∧ t.unread = left ∧
      t.link.rxDraws = rs := by
  obtain ⟨t, hr, hlink, hrecv⟩ := rxRecv_answered (n := l.toNat + 1) (s := s.setPhase .rxBody) { h with } hd
  have hsplit : op :: p ++ k :: left = (op :: p ++ [k]) ++ left := by simp
  have hlen : l.toNat + 1 = (op :: p ++ [k]).length := by simp; omega
  have hc : Completes (l.toNat + 1) (op :: p ++ k :: left) a := ⟨hin, by rw [hsplit, List.length_append]; omega⟩
  rw [unread_setPhase, hs, recvCount, if_pos hc, hsplit, hlen, List.drop_left] at hrecv
  rw [unread_setPhase, hs, recvResult, if_pos hc, hsplit, hlen, List.take_left, ← hlen] at hr
  exact ⟨t, readComplexBody_ok h.rxBuf hheld.mark hheld.length hp hlink hr, hlink, hrecv.unread, hrecv.rxDraws⟩

end

/-- ACK_L, ACK_OP and ACK_P pass from a state to one that differs in PHASE and the LINK. -/
theorem LinkOnly.sameAck {p : Phase} {s t : State} (h : LinkOnly (s.setPhase p) t) : SameAck s t := by
  simp [SameAck, h.block]

/-- Where the header is accepted, RXBUF holds it and the second receive can be made on what the first left. -/
theorem readComplexAck_accepted {cap : Nat} {a : RxAnswer} {rs : List RxDraw} {s : State} {l : Byte} {r : List Byte}
    (h : Receivable s) (hd : s.link.rxDraws = .answer a :: rs) (hin : a.inTime = true)
    (hs : firstStream s a = cpxMark :: l :: r) (hacc : complexHeader s.params.rxBufCap cap cpxMark l = none) :
    ∃ u, readComplexAck cap s = readComplexBody u ∧ Receivable u ∧ HeaderHeld cap l u ∧ SameAck s u ∧ u.unread = r ∧
      u.link.rxDraws = rs := by
  obtain ⟨t, hlink, hrecv, -, hgo⟩ := readComplexAck_header cap h hd hin hs
  refine ⟨t.storeRx 0 [cpxMark, l], hgo hacc, ⟨hlink.streams h.streams, ?_, ?_⟩, .storeRx (by rw [hlink.params]; exact hacc),
    hlink.sameAck, hrecv.unread, hrecv.rxDraws⟩
  · rw [storeRx_rxBuf, hlink.block]
    exact Buffer.writeAll_wf h.rxBuf 0 _
  · rw [storeRx_ep, hlink.block]
    exact h.ep

/-- READ_COMPLEX_ACK on a whole reply that comes in two receives. -/
theorem readComplexAck_reply {cap : Nat} {a1 a2 : RxAnswer} {rs : List RxDraw} {s : State} {l op k : Byte} {r p left : List Byte}
    (h : Receivable s) (hd : s.link.rxDraws = .answer a1 :: .answer a2 :: rs) (hin1 : a1.inTime = true) (hin2 : a2.inTime = true)
    (hs : firstStream s a1 = cpxMark :: l :: r) (hacc : complexHeader s.params.rxBufCap cap cpxMark l = none)
    (hbody : r ++ a2.arrived = op :: p ++ k :: left) (hp : p.length + 1 = l.toNat) :
    ∃ t, readComplexAck cap s = replyVerdict l op p k t ∧ SameAck s t ∧ t.unread = left ∧ t.link.rxDraws = rs := by
  obtain ⟨u, hgo, hu, hheld, ⟨hackL, hackOp, hackP⟩, hunread, hdraws⟩ := readComplexAck_accepted h hd hin1 hs hacc
  obtain ⟨t, hv, hlink, hleft, hrs⟩ := readComplexBody_reply hu hheld hdraws hin2 (hunread ▸ hbody) hp
  obtain ⟨hl, ho, hpay⟩ := hlink.sameAck
  exact ⟨t, hgo.trans hv, ⟨hl.trans hackL, ho.trans hackOp, hpay.trans hackP⟩, hleft, hrs⟩

/-! ### The whole frame sent -/

/-- A count of at least the frame's length is no short send. -/
theorem sendBuilt_whole {s : State} {k : Nat} {ts : List TxDraw} (hl : s.block.txLen = some s.txFrame.length)
    (hd : s.link.txDraws = .sent k :: ts) (hk : s.txFrame.length ≤ k) :
    sendBuilt s = .go () ((s.setPhase .tx).setLink (s.link.afterSend ts s.block.ep s.txFrame s.txFrame.length)) := by
  have hsend : txSend (s.setPhase .tx).txFrame (s.setPhase .tx) =
      (some s.txFrame.length, (s.setPhase .tx).setLink (s.link.afterSend ts s.block.ep s.txFrame s.txFrame.length)) := by
    rw [txSend_sent (s := s.setPhase .tx) hd,
      show min k (s.setPhase .tx).txFrame.length = s.txFrame.length from Nat.min_eq_right hk]
    rfl
  have hwhole : ¬ s.txFrame.length < ((s.setPhase .tx).setLink
      (s.link.afterSend ts s.block.ep s.txFrame s.txFrame.length)).block.txLen.getD 0 := by
    simp [hl]
  simp only [sendBuilt, transmit, hsend, if_neg hwhole, Flow.andThen]

/-- The command has started and its whole frame has been sent. -/
def State.sent (opc arg : Byte) (ts : List TxDraw) (s : State) : State :=
  ((s.started opc arg).setPhase .tx).setLink
    (s.link.afterSend ts s.block.ep (frameOf opc arg) (frameOf opc arg).length)

section
variable {i : Instr} {opc arg : Byte} {ts : List TxDraw} {s : State}

theorem sendBuilt_started (hm : opc ∈ commandOpcodes) (h : SendsWhole s opc arg ts) :
    sendBuilt (s.started opc arg) = .go () (s.sent opc arg ts) := by
  obtain ⟨hinv, -, k, hk, hd⟩ := h
  have hframe : (s.started opc arg).txFrame = frameOf opc arg :=
    (txFrame_setFrame hinv.store.tx_wf _).trans (Proofs.commandFramesAreTheTable opc hm arg)
  have hlen : (s.started opc arg).block.txLen = some (s.started opc arg).txFrame.length := by
    rw [hframe, ← Proofs.commandFramesAreTheTable opc hm arg]
    rfl
  rw [sendBuilt_whole hlen hd (hframe ▸ hk), hframe]
  rfl

theorem receivable_sent (h : SendsWhole s opc arg ts) : Receivable (s.sent opc arg ts) := by
  obtain ⟨hinv, ⟨-, -, hn⟩, -⟩ := h
  exact ⟨hinv.store.streams, hinv.store.rx_wf, hinv.reg.bound_iff.1 hn⟩

/-- What an exchange keeps after its send is what the command leaves unchanged. -/
theorem sameAround_of_keeps {t : State} (h : Keeps (s.sent opc arg ts) t) : SameAround s t ∧ SameResults s t :=
  ⟨⟨h.bound, h.ep, h.fault, h.port, h.params⟩, h.resFine, h.resCoarse, h.resCoeff⟩

/-! ### The end of a simple command -/

theorem commandOf_of_simpleOf (h : simpleOf i = some (opc, arg)) : commandOf i = some (opc, arg) := by
  cases i <;> cases h <;> rfl

theorem exec_simple (hi : simpleOf i = some (opc, arg)) (h : SendsWhole s opc arg ts) :
    exec i s = .next ((readSimpleAck (s.sent opc arg ts)).andThen simpleCheck).state := by
  have hc := commandOf_of_simpleOf hi
  have hm := mem_commandOpcodes_of_commandOf hc
  rw [exec_of_ready hc h.2.1, bodyOf_simple hm (dataCapacity_of_simpleOf hc hi), runSimple, sendBuilt_started hm h]
  rfl

/-- The number of a reply's status is that of its classification. -/
theorem simpleReplyCode_eq (s : State) (a : RxAnswer) : simpleReplyCode s a = statusCode (ackStatus (simpleOutcome s a)) := by
  unfold simpleReplyCode simpleOutcome
  by_cases hc : Completes 2 (firstStream s a) a
  · rw [if_pos hc, if_pos hc, classifySimple, apply_ite ackStatus, apply_ite ackStatus, apply_ite statusCode,
      apply_ite statusCode]
    rfl
  · rw [if_neg hc, if_neg hc]
    rfl

/-! ### The end of a data command -/

theorem commandOf_of_dataOf {cap : Nat} (h : dataOf i = some (opc, arg, cap)) : commandOf i = some (opc, arg) := by
  cases i <;> cases h <;> rfl

theorem exec_data {cap : Nat} (hi : dataOf i = some (opc, arg, cap)) (h : SendsWhole s opc arg ts) :
    exec i s = .next (((readComplexAck cap (s.sent opc arg ts)).andThen (complexCheck opc cap)).andThen (deliver opc)).state := by
  have hc := commandOf_of_dataOf hi
  have hm := mem_commandOpcodes_of_commandOf hc
  rw [exec_of_ready hc h.2.1, bodyOf_data (dataCapacity_of_dataOf hc hi), runComplex, sendBuilt_started hm h]
  rfl

/-- Where the ack outcome ends a data command, it ends with the status given, on the LINK as the reader left it. -/
theorem exec_data_ended {cap : Nat} {o : AckOutcome} {u : State} {st : Status} (hi : dataOf i = some (opc, arg, cap))
    (h : SendsWhole s opc arg ts) (hack : readComplexAck cap (s.sent opc arg ts) = .go o u)
    (hend : complexCheck opc cap o u = .ended (finish st (u.setPhase .check))) :
    ∃ t, exec i s = .next t ∧ EndedWith (statusCode st) t ∧ SameAround s t ∧ SameResults s t ∧ t.link = u.link := by
  have hflow : (readComplexAck cap (s.sent opc arg ts)).andThen (complexCheck opc cap) =
      .ended (finish st (u.setPhase .check)) := by rw [hack]; exact hend
  have hkeeps := runComplex_keeps opc cap cap .rxHdr (s.sent opc arg ts)
  rw [runComplex, hflow] at hkeeps
  obtain ⟨haround, hresults⟩ := sameAround_of_keeps hkeeps
  refine ⟨_, exec_data hi h, ?_⟩
  rw [hflow]
  exact ⟨⟨rfl, rfl, rfl⟩, haround, hresults, rfl⟩

/-- Every ack outcome but Positive is a status of its own (rule R112). -/
theorem complexCheck_of_ne_positive (expLen : Nat) {a : AckOutcome} (h : a ≠ .positive) (u : State) :
    complexCheck opc expLen a u = .ended (finish (ackStatus a) (u.setPhase .check)) := by
  cases a with
  | positive => exact absurd rfl h
  | negative | error | badChecksum => rfl

/-- The expectation check on a positive reply (rule R115). -/
theorem complexCheck_positive (expLen : Nat) {p : List Byte} {u : State} (hp : u.block.ackP = some p) :
    complexCheck opc expLen .positive u =
      if u.block.ackOp = some opc ∧ p.length = expLen then .go p (u.setPhase .check)
      else .ended (finish .badResponse (u.setPhase .check)) := by
  rw [← setPhase_ackP .check] at hp
  simp only [complexCheck, hp]
  rfl

/-- Rule R115: another echo or another payload length is BAD_RESPONSE. -/
theorem complexCheck_mismatch {expLen : Nat} {op : Byte} {p : List Byte} {u : State} (ho : u.block.ackOp = some op)
    (hp : u.block.ackP = some p) (h : op ≠ opc ∨ p.length ≠ expLen) :
    complexCheck opc expLen .positive u = .ended (finish .badResponse (u.setPhase .check)) := by
  have hne : ¬ (some op = some opc ∧ p.length = expLen) := fun ⟨h1, h2⟩ =>
    h.elim (fun h => h (Option.some.inj h1)) (fun h => h h2)
  rw [complexCheck_positive expLen hp, ho, if_neg hne]

end

end Sys2Proof.Machine

namespace Sys2Proof.Proofs

open Sys2Proof Sys2Proof.Machine

/-- Settles O20: after the frame one receive is made, and its classification is the status. -/
theorem simpleCommandsComplete : Obligations.SimpleCommandsComplete := by
  intro i opc arg s ts a rs hi h hd
  obtain ⟨u, hack, hrecv⟩ := readSimpleAck_answered (receivable_sent h) (s := s.sent opc arg ts) hd
  have hkeeps := runSimple_keeps opc 0 none .rxHdr (s.sent opc arg ts)
  rw [runSimple, hack] at hkeeps
  obtain ⟨haround, hresults⟩ := sameAround_of_keeps hkeeps
  refine ⟨_, exec_simple hi h, ?_⟩
  rw [hack, simpleReplyCode_eq]
  refine ⟨⟨rfl, rfl, rfl⟩, haround, hresults, hrecv.log.trans ?_, hrecv.txDraws, hrecv.rxDraws, hrecv.unread⟩
  exact List.append_assoc _ [_] [_]

/-- Settles O17: the reader decides on the reply's own bytes, which RXBUF gives back. -/
theorem complexAckRoundTrips : Obligations.ComplexAckRoundTrips := by
  intro cap op k p s a1 a2 rs hstore hep hcap hmax hbuf hd hin1 hin2 hbytes htwo
  have hlen : (BitVec.ofNat 8 (p.length + 1)).toNat = p.length + 1 := by
    rw [BitVec.toNat_ofNat, Nat.mod_eq_of_lt (by omega)]
  obtain ⟨b0, b1, r, hs⟩ : ∃ b0 b1 r, firstStream s a1 = b0 :: b1 :: r := by
    match hfs : firstStream s a1, htwo with
    | b0 :: b1 :: r, _ => exact ⟨b0, b1, r, rfl⟩
  simp only [hs, List.cons_append, List.nil_append, List.cons.injEq] at hbytes
  obtain ⟨rfl, rfl, hbody⟩ := hbytes
  have hacc : complexHeader s.params.rxBufCap cap cpxMark (BitVec.ofNat 8 (p.length + 1)) = none :=
    complexHeader_eq_none_iff.2 ⟨rfl, by omega, by omega, by omega⟩
  obtain ⟨t, hv, ⟨hl, ho, hp⟩, hleft, -⟩ :=
    readComplexAck_reply ⟨hstore.streams, hstore.rx_wf, hep⟩ hd hin1 hin2 hs hacc hbody hlen.symm
  rw [hv]
  constructor
  · rintro rfl
    exact ⟨_, if_pos rfl, rfl, rfl, rfl, hleft⟩
  · intro hk
    exact ⟨_, if_neg (Ne.symm hk), ho, hp, hl, hleft⟩

/-- Settles O23: a timeout and a refused header end READ_COMPLEX_ACK on its first receive. -/
theorem dataCommandsEndOnTheHeader : Obligations.DataCommandsEndOnTheHeader := by
  intro i opc arg cap s ts a rs c hi h hd hc
  suffices hack : ∃ o u left, readComplexAck cap (s.sent opc arg ts) = .go o u ∧ o ≠ .positive ∧ c = statusCode (ackStatus o) ∧
      Received rs (firstCall s a) left (s.sent opc arg ts) u by
    obtain ⟨o, u, left, hack, ho, rfl, hrecv⟩ := hack
    obtain ⟨t, ht, hend, haround, hresults, hlink⟩ := exec_data_ended hi h hack (complexCheck_of_ne_positive cap ho u)
    have hfour : (frameOf opc arg).length = 4 := by cases i <;> cases hi <;> rfl
    refine ⟨t, ht, hend, haround, hresults, ?_, hlink ▸ hrecv.rxDraws⟩
    rw [hlink, hrecv.log, ← hfour]
    exact List.append_assoc _ [_] [_]
  obtain ⟨rfl, hlate⟩ | ⟨hin, b0, b1, r, hs, hpair⟩ := hc
  · obtain ⟨u, left, hack, hrecv⟩ := readComplexAck_timeout cap (s := s.sent opc arg ts) (receivable_sent h) hd hlate
    exact ⟨.error, u, left, hack, nofun, rfl, hrecv⟩
  · obtain ⟨u, -, hrecv, hgo, -⟩ := readComplexAck_header cap (s := s.sent opc arg ts) (receivable_sent h) hd hin hs
    obtain ⟨hnegative, herror, -⟩ := complexHeaderDecides s.params.rxBufCap cap b0 b1
    obtain ⟨rfl, hneg⟩ | ⟨rfl, hneg, hbad⟩ := hpair
    · exact ⟨.negative, _, r, hgo _ (hnegative.2 hneg), nofun, rfl, { hrecv with }⟩
    · have hwhy : b0 ≠ 0x40 ∨ b1 = 0 ∨ s.params.rxBufCap < b1.toNat + 3 ∨ cap + 1 < b1.toNat :=
        hbad.imp_right (Or.imp_right .inr)
      exact ⟨.error, _, r, hgo _ (herror.2 ⟨hneg, hwhy⟩), nofun, rfl, { hrecv with }⟩

/-- Settles O24: behind an accepted header the second receive, the checksum and the expectation check end the command in turn. -/
theorem dataCommandsEndOnTheBody : Obligations.DataCommandsEndOnTheBody := by
  intro i opc arg cap s ts a1 a2 rs l r c hi h hd hin hs hl hcap hc
  suffices hack : ∃ o u st, readComplexAck cap (s.sent opc arg ts) = .go o u ∧ c = statusCode st ∧
      complexCheck opc cap o u = .ended (finish st (u.setPhase .check)) ∧ u.link.rxDraws = rs by
    obtain ⟨o, u, st, hack, rfl, hend, hrs⟩ := hack
    obtain ⟨t, ht, hended, haround, hresults, hlink⟩ := exec_data_ended hi h hack hend
    exact ⟨t, ht, hended, haround, hresults, hlink ▸ hrs⟩
  have hready := receivable_sent h
  have hmax := dataCapacity_le (dataCapacity_of_dataOf (commandOf_of_dataOf hi) hi)
  have hsize := h.1.store.params.1
  have hacc : complexHeader s.params.rxBufCap cap cpxMark l = none :=
    complexHeader_eq_none_iff.2 ⟨rfl, hl, by omega, hcap⟩
  obtain ⟨rfl, hlate⟩ | ⟨hin2, op, p, k, left, hbody, hp, hcase⟩ := hc
  · obtain ⟨u, hgo, hu, hheld, -, rfl, hdraws⟩ := readComplexAck_accepted (s := s.sent opc arg ts) hready hd hin hs hacc
    obtain ⟨t, ht, hrs⟩ := readComplexBody_timeout hu hheld hdraws hlate
    exact ⟨.error, t, .badResponse, hgo.trans ht, rfl, rfl, hrs⟩
  · obtain ⟨t, hv, -, -, hrs⟩ := readComplexAck_reply (s := s.sent opc arg ts) hready hd hin hin2 hs hacc hbody hp
    obtain ⟨rfl, hk⟩ | ⟨rfl, rfl, hother⟩ := hcase
    · exact ⟨.badChecksum, _, .badChecksum, hv.trans (if_neg (Ne.symm hk)), rfl, rfl, hrs⟩
    · exact ⟨.positive, _, .badResponse, hv.trans (if_pos rfl), rfl, complexCheck_mismatch rfl rfl hother, hrs⟩

end Sys2Proof.Proofs
end

section
/-!
PROOFS. `RX_BUF_CAP` is not observable (42_ack_validator.md rule R101): only the header check reads it, and of two legal values neither
refuses a reply that a command's capacity admits; so every part of the machine does the same with the one as with the other.
-/
namespace Sys2Proof.Machine

open Sys2Proof

@[simp] theorem withRxBufCap_block (r : Nat) (s : State) : (withRxBufCap r s).block = s.block := rfl
@[simp] theorem withRxBufCap_link (r : Nat) (s : State) : (withRxBufCap r s).link = s.link := rfl
@[simp] theorem withRxBufCap_port (r : Nat) (s : State) : (withRxBufCap r s).port = s.port := rfl

/-! ### The parts of a command -/

/-- The states of a flow, changed by `g`. -/
def Flow.onState {α : Type} (g : State → State) : Flow α → Flow α
  | .wait s => .wait (g s)
  | .ended s => .ended (g s)
  | .go a s => .go a (g s)

theorem Flow.state_onState {α : Type} (g : State → State) (f : Flow α) : (f.onState g).state = g f.state := by
  cases f <;> rfl

/-- A sequence does with a changed state what its parts do. -/
theorem Flow.andThen_onState {α β : Type} {g : State → State} {f f' : Flow α} {k : α → State → Flow β} (hf : f' = f.onState g)
    (hk : ∀ a t, f = .go a t → k a (g t) = (k a t).onState g) : f'.andThen k = (f.andThen k).onState g := by
  subst hf
  cases f with
  | wait t => rfl
  | ended t => rfl
  | go a t => exact hk a t rfl

section
variable (r : Nat) (s : State)

theorem txSend_withRxBufCap (f : List Byte) :
    txSend f (withRxBufCap r s) = ((txSend f s).1, withRxBufCap r (txSend f s).2) := by
  unfold txSend
  rw [withRxBufCap_link]
  obtain ⟨_ | k, l⟩ := s.link.nextTx <;> rfl

theorem rxRecv_withRxBufCap (n : Nat) :
    rxRecv n (withRxBufCap r s) = ((rxRecv n s).1, withRxBufCap r (rxRecv n s).2) := by
  unfold rxRecv
  rw [withRxBufCap_link]
  obtain ⟨_ | a, l⟩ := s.link.nextRx
  · rfl
  · simp only [rxAnswer_eq]
    rfl

theorem settleUnread_withRxBufCap : settleUnread (withRxBufCap r s) = withRxBufCap r (settleUnread s) := by
  unfold settleUnread
  rw [apply_ite (withRxBufCap r)]
  rfl

theorem transmit_withRxBufCap : transmit (withRxBufCap r s) = (transmit s).onState (withRxBufCap r) := by
  have hsend := txSend_withRxBufCap r (s.setPhase .tx) (s.setPhase .tx).txFrame
  generalize hx : txSend (s.setPhase .tx).txFrame (s.setPhase .tx) = x at hsend
  have hsend' : txSend ((withRxBufCap r s).setPhase .tx).txFrame ((withRxBufCap r s).setPhase .tx) =
    (x.1, withRxBufCap r x.2) := hsend
  obtain ⟨_ | k, t⟩ := x
  · simp only [transmit, hx, hsend', Flow.onState]
  · simp only [transmit, hx, hsend', withRxBufCap_block]
    rw [apply_ite (Flow.onState _)]
    rfl

theorem sendBuilt_withRxBufCap : sendBuilt (withRxBufCap r s) = (sendBuilt s).onState (withRxBufCap r) :=
  Flow.andThen_onState (transmit_withRxBufCap r s) fun o _ _ => by cases o <;> rfl

theorem sendFrame_withRxBufCap (opc : Byte) (n : Nat) (pay : Option (List Byte)) :
    sendFrame opc n pay (withRxBufCap r s) = (sendFrame opc n pay s).onState (withRxBufCap r) := by
  have hbuild : buildFrame opc n pay ((withRxBufCap r s).setPhase .build) =
      ((buildFrame opc n pay (s.setPhase .build)).1, withRxBufCap r (buildFrame opc n pay (s.setPhase .build)).2) := by
    unfold buildFrame
    split_ifs <;> rfl
  unfold sendFrame
  rw [hbuild]
  obtain ⟨_ | _, t⟩ := buildFrame opc n pay (s.setPhase .build)
  · exact sendBuilt_withRxBufCap r t
  · rfl

theorem rxHeader_withRxBufCap :
    rxRecv 2 (settleUnread ((withRxBufCap r s).setPhase .rxHdr)) =
      ((rxRecv 2 (settleUnread (s.setPhase .rxHdr))).1, withRxBufCap r (rxRecv 2 (settleUnread (s.setPhase .rxHdr))).2) := by
  rw [← rxRecv_withRxBufCap, ← settleUnread_withRxBufCap]
  rfl

theorem readSimpleAck_withRxBufCap : readSimpleAck (withRxBufCap r s) = (readSimpleAck s).onState (withRxBufCap r) := by
  unfold readSimpleAck
  rw [rxHeader_withRxBufCap]
  obtain ⟨_ | _ | bs, t⟩ := rxRecv 2 (settleUnread (s.setPhase .rxHdr)) <;> rfl

theorem readComplexBody_withRxBufCap : readComplexBody (withRxBufCap r s) = (readComplexBody s).onState (withRxBufCap r) := by
  have hrecv : rxRecv ((withRxBufCap r s).declaredLength + 1) ((withRxBufCap r s).setPhase .rxBody) =
    ((rxRecv (s.declaredLength + 1) (s.setPhase .rxBody)).1, withRxBufCap r (rxRecv (s.declaredLength + 1) (s.setPhase .rxBody)).2) :=
    rxRecv_withRxBufCap r (s.setPhase .rxBody) _
  unfold readComplexBody
  rw [hrecv]
  obtain ⟨_ | _ | bs, t⟩ := rxRecv (s.declaredLength + 1) (s.setPhase .rxBody)
  · rfl
  · rfl
  · dsimp only
    rw [apply_ite (Flow.onState _)]
    rfl

/-- The one place that reads `RX_BUF_CAP`. -/
theorem readComplexAck_withRxBufCap {r cap : Nat} {s : State} (hr : cap + 4 ≤ r) (hs : cap + 4 ≤ s.params.rxBufCap) :
    readComplexAck cap (withRxBufCap r s) = (readComplexAck cap s).onState (withRxBufCap r) := by
  have hparams := (rxHeader_keeps s).params
  rw [← hparams] at hs
  unfold readComplexAck
  rw [rxHeader_withRxBufCap]
  generalize rxRecv 2 (settleUnread (s.setPhase .rxHdr)) = x at hs
  obtain ⟨_ | _ | bs, t⟩ := x
  · rfl
  · rfl
  · match bs with
    | [] => rfl
    | [_] => rfl
    | _ :: _ :: _ :: _ => rfl
    | [b0, b1] =>
      have hcheck : complexHeader r cap b0 b1 = complexHeader (t.storeRx 0 [b0, b1]).params.rxBufCap cap b0 b1 :=
        complexHeader_of_large b0 b1 hr hs
      have hcap : ((withRxBufCap r t).storeRx 0 [b0, b1]).params.rxBufCap = r := rfl
      cases hh : complexHeader (t.storeRx 0 [b0, b1]).params.rxBufCap cap b0 b1 with
      | some a =>
        simp only [hcap, hcheck, hh]
        rfl
      | none =>
        simp only [hcap, hcheck, hh]
        exact readComplexBody_withRxBufCap r (t.storeRx 0 [b0, b1])

theorem complexCheck_withRxBufCap (opc : Byte) (n : Nat) (a : AckOutcome) :
    complexCheck opc n a (withRxBufCap r s) = (complexCheck opc n a s).onState (withRxBufCap r) := by
  cases a with
  | negative | badChecksum | error => rfl
  | positive =>
    cases hp : s.block.ackP with
    | none => simp only [complexCheck, setPhase_ackP, withRxBufCap_block, hp]; rfl
    | some p =>
      rw [complexCheck_positive n hp, complexCheck_positive n (u := withRxBufCap r s) hp, apply_ite (Flow.onState _)]
      rfl

theorem deliver_withRxBufCap (opc : Byte) (p : List Byte) :
    deliver opc p (withRxBufCap r s) = (deliver opc p s).onState (withRxBufCap r) := by
  unfold deliver
  split_ifs
  · unfold deliverResults
    split <;> rfl
  · unfold deliverCoeff
    split <;> rfl

/-! ### The whole command, from a PHASE on -/

theorem simpleReply_withRxBufCap : (readSimpleAck (withRxBufCap r s)).andThen simpleCheck =
    ((readSimpleAck s).andThen simpleCheck).onState (withRxBufCap r) :=
  Flow.andThen_onState (readSimpleAck_withRxBufCap r s) fun _ _ _ => rfl

theorem runSimple_withRxBufCap (opc : Byte) (n : Nat) (pay : Option (List Byte)) (p : Phase) :
    runSimple opc n pay p (withRxBufCap r s) = (runSimple opc n pay p s).onState (withRxBufCap r) := by
  cases p with
  | build => exact Flow.andThen_onState (sendFrame_withRxBufCap r s opc n pay) fun _ t _ => simpleReply_withRxBufCap r t
  | tx => exact Flow.andThen_onState (sendBuilt_withRxBufCap r s) fun _ t _ => simpleReply_withRxBufCap r t
  | rxHdr => exact simpleReply_withRxBufCap r s
  | idle | rxBody | check => rfl

end

section
variable {r : Nat} {s : State}

theorem complexReply_withRxBufCap {cap : Nat} (opc : Byte) (n : Nat) (hr : cap + 4 ≤ r) (hs : cap + 4 ≤ s.params.rxBufCap) :
    (readComplexAck cap (withRxBufCap r s)).andThen (complexCheck opc n) =
      ((readComplexAck cap s).andThen (complexCheck opc n)).onState (withRxBufCap r) :=
  Flow.andThen_onState (readComplexAck_withRxBufCap hr hs) fun a t _ => complexCheck_withRxBufCap r t opc n a

theorem runComplex_withRxBufCap {cap : Nat} (opc : Byte) (n : Nat) (p : Phase) (hr : cap + 4 ≤ r)
    (hs : cap + 4 ≤ s.params.rxBufCap) :
    runComplex opc cap n p (withRxBufCap r s) = (runComplex opc cap n p s).onState (withRxBufCap r) := by
  cases p with
  | build =>
    refine Flow.andThen_onState (sendFrame_withRxBufCap r s opc 0 none) fun _ t ht => complexReply_withRxBufCap opc n hr ?_
    have hkeeps := sendFrame_keeps opc 0 none s
    rw [ht] at hkeeps
    exact hkeeps.params ▸ hs
  | tx =>
    refine Flow.andThen_onState (sendBuilt_withRxBufCap r s) fun _ t ht => complexReply_withRxBufCap opc n hr ?_
    have hkeeps := sendBuilt_keeps s
    rw [ht] at hkeeps
    exact hkeeps.params ▸ hs
  | rxHdr => exact complexReply_withRxBufCap opc n hr hs
  | rxBody =>
    exact Flow.andThen_onState (readComplexBody_withRxBufCap r s) fun a t _ => complexCheck_withRxBufCap r t opc n a
  | idle | check => rfl

theorem bodyOf_of_not_command {opc : Byte} (hm : opc ∉ commandOpcodes) (p : Phase) (s : State) : bodyOf opc p s = s := by
  simp only [commandOpcodes, List.mem_cons, List.not_mem_nil, or_false, not_or] at hm
  simp only [bodyOf, hm, if_false]

theorem bodyOf_withRxBufCap (opc : Byte) (p : Phase) (hr : 8 ≤ r) (hs : 8 ≤ s.params.rxBufCap) :
    bodyOf opc p (withRxBufCap r s) = withRxBufCap r (bodyOf opc p s) := by
  by_cases hm : opc ∈ commandOpcodes
  · cases hd : dataCapacity opc with
    | none =>
      rw [bodyOf_simple hm hd, bodyOf_simple hm hd, ← Flow.state_onState (withRxBufCap r), ← runSimple_withRxBufCap]
      rfl
    | some cap =>
      have hcap := dataCapacity_le hd
      rw [bodyOf_data hd, bodyOf_data hd, ← Flow.state_onState (withRxBufCap r)]
      exact congrArg Flow.state (Flow.andThen_onState (runComplex_withRxBufCap opc cap p (by omega) (by omega))
        fun q t _ => deliver_withRxBufCap r t opc q)
  · rw [bodyOf_of_not_command hm, bodyOf_of_not_command hm]

theorem resume_withRxBufCap (hr : 8 ≤ r) (hs : 8 ≤ s.params.rxBufCap) :
    resume (withRxBufCap r s) = withRxBufCap r (resume s) := by
  cases hb : s.block.busy with
  | false => rw [resume_of_idle hb, resume_of_idle (s := withRxBufCap r s) hb]
  | true =>
    simp only [resume, withRxBufCap_block, hb, if_true]
    cases s.block.curOp with
    | none => rfl
    | some opc => exact bodyOf_withRxBufCap opc _ hr hs

/-! ### Operations and steps -/

/-- The next state of an outcome, changed by `g`; a fault or a refusal as it is. -/
def onNext (g : State → State) : Host.Outcome State Fault Refusal → Host.Outcome State Fault Refusal
  | .next s => .next (g s)
  | .fault q => .fault q
  | .refused q => .refused q

theorem unlessFaulted_withRxBufCap {k k' : Host.Outcome State Fault Refusal} (h : k' = onNext (withRxBufCap r) k) :
    unlessFaulted (withRxBufCap r s) k' = onNext (withRxBufCap r) (unlessFaulted s k) := by
  subst h
  unfold unlessFaulted
  rw [withRxBufCap_block]
  cases s.block.fault <;> rfl

theorem startCommand_withRxBufCap (opc arg : Byte) (hr : 8 ≤ r) (hs : 8 ≤ s.params.rxBufCap) :
    startCommand opc arg (bodyOf opc) (withRxBufCap r s) = onNext (withRxBufCap r) (startCommand opc arg (bodyOf opc) s) := by
  refine unlessFaulted_withRxBufCap ?_
  rw [apply_ite (onNext _), apply_ite (onNext _), onNext, ← bodyOf_withRxBufCap opc .build hr (s := s.latch opc arg) hs]
  rfl

theorem exec_withRxBufCap (i : Instr) (hr : 8 ≤ r) (hs : 8 ≤ s.params.rxBufCap) :
    exec i (withRxBufCap r s) = onNext (withRxBufCap r) (exec i s) := by
  cases i with
  | startMeas | stopMeas | readResults | setCoeff | readCoeff | stopAutoSend | enableAutoSend =>
    rw [exec_of_commandOf rfl, exec_of_commandOf rfl]
    exact startCommand_withRxBufCap _ _ hr hs
  | bind ep =>
    refine unlessFaulted_withRxBufCap ?_
    rw [apply_ite (onNext _)]
    rfl
  | rd q =>
    refine unlessFaulted_withRxBufCap ?_
    rw [withRxBufCap_block, apply_ite (onNext _)]
    cases heldValue s.block q <;> rfl

theorem refuseAccess_withRxBufCap (e : DecodeError) :
    refuseAccess e (withRxBufCap r s) = onNext (withRxBufCap r) (refuseAccess e s) := by
  cases e with
  | illegalAccess => exact unlessFaulted_withRxBufCap rfl
  | illegalOpcode =>
    refine unlessFaulted_withRxBufCap ?_
    rw [apply_ite (onNext _)]
    rfl
  | valueTooWide => exact unlessFaulted_withRxBufCap rfl

theorem wellFormed_withRxBufCap (i : Instr) : i.wellFormed (withRxBufCap r s).params = i.wellFormed s.params := by
  cases i <;> rfl

theorem hostAccess_withRxBufCap (a : HostAccess) (hr : 8 ≤ r) (hs : 8 ≤ s.params.rxBufCap) :
    hostAccess a (withRxBufCap r s) = onNext (withRxBufCap r) (hostAccess a s) := by
  unfold hostAccess
  cases decode a with
  | error e => exact refuseAccess_withRxBufCap e
  | ok i =>
    simp only [wellFormed_withRxBufCap]
    split_ifs
    · exact exec_withRxBufCap i hr hs
    · exact refuseAccess_withRxBufCap _

theorem step_withRxBufCap (hr : 8 ≤ r) (hs : 8 ≤ s.params.rxBufCap) :
    step (withRxBufCap r s) = onNext (withRxBufCap r) (step s) := by
  have hresume : ∀ es, resume ((withRxBufCap r s).setInbox es) = withRxBufCap r (resume (s.setInbox es)) :=
    fun es => resume_withRxBufCap (s := s.setInbox es) hr hs
  unfold step
  rw [withRxBufCap_port]
  match s.port.inbox with
  | .access a :: es => exact hostAccess_withRxBufCap (s := s.setInbox es) a hr hs
  | .reset left :: es =>
    refine congrArg Host.Outcome.next ?_
    unfold takeReset resetLink
    simp only [setInbox_block, withRxBufCap_block]
    split_ifs <;> rfl
  | .wait :: es => exact unlessFaulted_withRxBufCap (congrArg _ (hresume es))
  | [] => exact unlessFaulted_withRxBufCap (congrArg _ (resume_withRxBufCap hr hs))

end

end Sys2Proof.Machine

namespace Sys2Proof.Proofs

open Sys2Proof Sys2Proof.Machine

/-- Settles O52: every operation and every step commutes with the change of `RX_BUF_CAP`, faults and refusals included. -/
theorem rxBufCapIsNotObservable : Obligations.RxBufCapIsNotObservable := by
  intro r s t hs hr
  refine ⟨fun i h => ?_, fun h => ?_⟩
  · rw [exec_withRxBufCap i hr hs, h]
    rfl
  · rw [step_withRxBufCap hr hs, h]
    rfl

end Sys2Proof.Proofs
end

section
/-!
PROOFS. The accesses that find the block not ready, the register reads, the recorded fault, the reset event and waiting
(10_state.md sections 2 and 5, 60_exceptions.md section 3, 70_reset_and_hazards.md section 1).
-/
namespace Sys2Proof.Machine

open Sys2Proof

/-! ### Requests of a block that is not ready (rules R36, R110 and R111) -/

theorem startCommand_of_busy (opc arg : Byte) (body : Phase → State → State) {s : State} (hf : s.block.fault = none)
    (hb : s.block.busy = true) : startCommand opc arg body s = .next (raise .busyAccess s) := by
  rw [startCommand, unlessFaulted_clear hf, if_pos hb, takeFault]

theorem startCommand_of_unbound (opc arg : Byte) (body : Phase → State → State) {s : State} (hf : s.block.fault = none)
    (hb : s.block.busy = false) (hn : s.block.bound = false) : startCommand opc arg body s = .next (raise .unbound s) := by
  rw [startCommand, unlessFaulted_clear hf, if_neg (by simp [hb]), if_neg (by simp [hn]), takeFault]

theorem execBind_of_busy (ep : Nat) {s : State} (hf : s.block.fault = none) (hb : s.block.busy = true) :
    execBind ep s = .next (raise .busyAccess s) := by
  rw [execBind, unlessFaulted_clear hf, if_pos hb, takeFault]

theorem execBind_of_idle (ep : Nat) {s : State} (hf : s.block.fault = none) (hb : s.block.busy = false) :
    execBind ep s = .next (s.setBinding ep) := by
  rw [execBind, unlessFaulted_clear hf, if_neg (by simp [hb])]

/-! ### Reads that return a value (rules R20 to R25) -/

theorem execRd_of_held {r : ReadReg} {v : Half} {s : State} (hf : s.block.fault = none) (hr : s.block.busy = false ∨ r = .stat)
    (hv : heldValue s.block r = some v) : execRd r s = .next (s.setRdata r v) := by
  have hfree : ¬ (s.block.busy = true ∧ r ≠ .stat) := by
    rintro ⟨hb, hne⟩
    exact hr.elim (fun h => by simp [hb] at h) hne
  rw [execRd, unlessFaulted_clear hf, if_neg hfree, hv]

/-- Rule R20: BUSY in bit 0, BOUND in bit 1, zeros above. -/
theorem toNat_statWord (busy bound : Bool) : ((statWord busy bound).setWidth 16).toNat = busy.toNat + 2 * bound.toNat := by
  cases busy <;> cases bound <;> decide

/-! ### A recorded fault (rules R20 and R133) -/

theorem exec_of_fault {s : State} {r : Fault} (h : s.block.fault = some r) (i : Instr) : exec i s = .fault r := by
  cases i with
  | startMeas | stopMeas | readResults | setCoeff | readCoeff | stopAutoSend | enableAutoSend | bind | rd =>
    exact unlessFaulted_faulted h _

theorem refuseAccess_of_fault {s : State} {r : Fault} (h : s.block.fault = some r) (e : DecodeError) :
    refuseAccess e s = .fault r := by
  cases e with
  | illegalAccess | illegalOpcode | valueTooWide => exact unlessFaulted_faulted h _

theorem hostAccess_of_fault {s : State} {r : Fault} (h : s.block.fault = some r) (a : HostAccess) :
    hostAccess a s = .fault r := by
  unfold hostAccess
  split
  · split_ifs
    · exact exec_of_fault h _
    · exact refuseAccess_of_fault h _
  · exact refuseAccess_of_fault h _

/-! ### Steps with no access (rules R144 to R146) -/

theorem step_of_reset {s : State} {left : List Byte} {es : List HostEvent} (h : s.port.inbox = .reset left :: es) :
    step s = .next (takeReset left (s.setInbox es)) := by
  simp only [step, h]

theorem step_of_wait {s : State} {es : List HostEvent} (hi : s.port.inbox = .wait :: es) (hf : s.block.fault = none) :
    step s = .next (resume (s.setInbox es)) := by
  simp only [step, hi, unlessFaulted_clear hf]

theorem step_of_no_event {s : State} (hi : s.port.inbox = []) (hf : s.block.fault = none) : step s = .next (resume s) := by
  simp only [step, hi, unlessFaulted_clear hf]

theorem resetLink_of_idle (left : List Byte) {s : State} (hb : s.block.busy = false) : resetLink left s = s.link := by
  rw [resetLink, if_neg (by simp [hb])]

theorem resetLink_of_busy (left : List Byte) {s : State} (hb : s.block.busy = true) :
    (resetLink left s).txDraws = s.link.txDraws ∧ (resetLink left s).rxDraws = s.link.rxDraws ∧
      (∃ l, (resetLink left s).log = s.link.log ++ l) ∧ (resetLink left s).unread = s.unreadSet left := by
  rw [resetLink, if_pos hb]
  refine ⟨rfl, rfl, ?_, rfl⟩
  dsimp only
  split_ifs
  · exact ⟨_, rfl⟩
  · exact ⟨[], (List.append_nil _).symm⟩

/-- The reset values meet the invariant, with no byte unread and legal parameters. -/
theorem inv_resetWith {p : Params} (h : p.wf) : Inv (State.resetWith p) where
  reg := by constructor <;> simp [Block.reset]
  op := opInv_of_idle rfl rfl (by simp [Block.reset])
  store :=
    { tx_wf := Buffer.wf_reset
      tx_within := by simp [Block.reset]
      rx_wf := Buffer.wf_reset
      rx_within := by simp [Block.reset]
      streams := Streams.wf_reset
      params := h }

end Sys2Proof.Machine

namespace Sys2Proof.Proofs

open Sys2Proof Sys2Proof.Machine

/-- Settles O27: the request checks BUSY, then BOUND, before anything starts. -/
theorem commandsFaultWhenNotReady : Obligations.CommandsFaultWhenNotReady := by
  intro i opc arg s hi hf
  rw [exec_of_commandOf hi]
  exact ⟨startCommand_of_busy opc arg _ hf, startCommand_of_unbound opc arg _ hf⟩

/-- Settles O28: BIND checks BUSY and then writes EP and BOUND. -/
theorem bindBindsTheEndpoint : Obligations.BindBindsTheEndpoint :=
  fun ep _ hf => ⟨execBind_of_idle ep hf, execBind_of_busy ep hf⟩

/-- Settles O29: a register that may be read and holds a value returns it. -/
theorem rdReturnsTheRegister : Obligations.RdReturnsTheRegister := by
  intro s hf
  refine ⟨⟨_, _, execRd_of_held hf (.inr rfl) rfl, rfl, toNat_statWord _ _⟩, fun hb => ?_⟩
  refine ⟨fun v hv => ?_, fun v hv => ?_, fun v hv => ?_, fun v hv => ?_⟩
  · exact execRd_of_held hf (.inl hb) hv
  · exact execRd_of_held hf (.inl hb) hv
  · exact execRd_of_held hf (.inl hb) (by rw [heldValue, hv]; rfl)
  · exact execRd_of_held hf (.inl hb) (by rw [heldValue, hv]; rfl)

/-- Settles O38: every operation, every refusal and every move of the ENGINE looks at the fault mark first. -/
theorem recordedFaultStops : Obligations.RecordedFaultStops := by
  intro s r h
  refine ⟨exec_of_fault h, fun hne => ?_⟩
  match hi : s.port.inbox with
  | .access a :: es => exact (step_of_access hi).trans (hostAccess_of_fault (s := s.setInbox es) h a)
  | .reset left :: es => exact absurd hi (hne left es)
  | .wait :: es => simp only [step, hi, unlessFaulted_faulted h]
  | [] => simp only [step, hi, unlessFaulted_faulted h]

/-- Settles O39: the block is the reset block, and only a command in progress lets the event touch the link. -/
theorem resetEventResets : Obligations.ResetEventResets := by
  intro s left es h
  refine ⟨_, step_of_reset h, rfl, rfl, rfl, resetLink_of_idle (s := s.setInbox es) left, fun hb => ?_⟩
  obtain ⟨htx, hrx, hlog, hu⟩ := resetLink_of_busy (s := s.setInbox es) left hb
  refine ⟨htx, hrx, hlog, fun e he hw => ?_⟩
  rw [takeReset_link, hu, State.unreadSet, setInbox_block, he]
  exact Streams.get_set_same hw e left

/-- Settles O42: an idle ENGINE does nothing. -/
theorem idleBlockWaits : Obligations.IdleBlockWaits := by
  intro s hi hf hb
  rw [step_of_no_event hi hf, resume_of_idle hb]

/-- Settles O44: State.reset is one of the states right after reset. -/
theorem resetMeetsTheInvariant : Obligations.ResetMeetsTheInvariant :=
  ⟨fun _ => inv_resetWith, inv_resetWith (by decide)⟩

end Sys2Proof.Proofs
end

section
/-!
PROOFS. The link on listed draws (20_memory.md section 2): one TxSend, one receive, and what a discarded stream leaves to be seen.
-/
namespace Sys2Proof.Machine

open Sys2Proof

/-! ### The receive streams, written twice -/

/-- A stream before all that are listed is put in front. -/
theorem Streams.set_of_lt {u : Streams} {ep : Nat} (h : ∀ c ∈ u, ep < c.1) (bs : List Byte) :
    u.set ep bs = if bs = [] then u else (ep, bs) :: u := by
  cases u with
  | nil => rfl
  | cons d t =>
    obtain ⟨e, cs⟩ := d
    rw [Streams.set, if_pos (h (e, cs) (by simp))]

/-- The last write to a stream is what counts. -/
theorem Streams.set_set {u : Streams} (h : u.wf) (ep : Nat) (bs bs' : List Byte) : (u.set ep bs).set ep bs' = u.set ep bs' := by
  replace h := h.1
  induction u with
  | nil => by_cases hb : bs = [] <;> simp [Streams.set, hb]
  | cons d t ih =>
    obtain ⟨e, cs⟩ := d
    obtain ⟨hlt, ht⟩ := List.pairwise_cons.1 h
    rcases lt_trichotomy ep e with he | rfl | he
    · by_cases hb : bs = [] <;> simp [Streams.set, hb, he]
    · by_cases hb : bs = []
      · simpa [Streams.set, hb] using Streams.set_of_lt hlt bs'
      · simp [Streams.set, hb]
    · simp [Streams.set, he.not_gt, he.ne', ih ht]

/-- Writing what a stream holds changes nothing. -/
theorem Streams.set_get {u : Streams} (h : u.wf) (ep : Nat) : u.set ep (u.get ep) = u := by
  obtain ⟨hsorted, hne⟩ := h
  induction u with
  | nil => simp [Streams.set, Streams.get]
  | cons d t ih =>
    obtain ⟨e, cs⟩ := d
    obtain ⟨hlt, ht⟩ := List.pairwise_cons.1 hsorted
    rcases lt_trichotomy ep e with he | rfl | he
    · have hnil : Streams.get ((e, cs) :: t) ep = [] := by
        refine Streams.get_eq_nil fun c hc => ?_
        rcases List.mem_cons.1 hc with rfl | hc
        · exact he.ne'
        · exact (he.trans (hlt c hc)).ne'
      rw [hnil, Streams.set, if_pos he, if_pos rfl]
    · have hcs : cs ≠ [] := hne (ep, cs) (by simp)
      simp [Streams.set, Streams.get, hcs]
    · simp [Streams.set, Streams.get, he.not_gt, he.ne, he.ne', ih ht fun c hc => hne c (by simp [hc])]

theorem unreadSet_setLink {s : State} (h : s.link.unread.wf) (bs bs' : List Byte) :
    (s.setLink { s.link with unread := s.unreadSet bs }).unreadSet bs' = s.unreadSet bs' := by
  unfold State.unreadSet
  rw [setLink_block]
  cases s.block.ep with
  | none => rfl
  | some ep => exact Streams.set_set h ep bs bs'

/-! ### The first receive sees the settled stream alone (rule R47) -/

/-- Bytes that are discarded before the first receive do not matter. -/
theorem settleUnread_of_discarded {s : State} (h : s.link.unread.wf) (hq : s.params.linkRetainsUnread = false) (bs : List Byte) :
    settleUnread (s.setLink { s.link with unread := s.unreadSet bs }) = settleUnread s := by
  have hu := unreadSet_setLink h bs []
  unfold settleUnread
  rw [if_neg (by simp [hq]), if_neg (by simp [hq]), hu]
  rfl

theorem readSimpleAck_congr {s t : State} (h : settleUnread (s.setPhase .rxHdr) = settleUnread (t.setPhase .rxHdr)) :
    readSimpleAck s = readSimpleAck t := by
  rw [readSimpleAck, readSimpleAck, h]

theorem readComplexAck_congr {s t : State} (h : settleUnread (s.setPhase .rxHdr) = settleUnread (t.setPhase .rxHdr)) (cap : Nat) :
    readComplexAck cap s = readComplexAck cap t := by
  rw [readComplexAck, readComplexAck, h]

/-! ### A whole reply in two receives (rules R102 to R104) -/

/-- READ_COMPLEX_ACK on a whole reply decides on it, and what is logged is the first receive and the second. -/
theorem readComplexAck_whole {cap : Nat} {a1 a2 : RxAnswer} {rs : List RxDraw} {s : State} {l op k : Byte} {r p left : List Byte}
    (h : Receivable s) (hd : s.link.rxDraws = .answer a1 :: .answer a2 :: rs) (hin1 : a1.inTime = true) (hin2 : a2.inTime = true)
    (hs : firstStream s a1 = cpxMark :: l :: r) (hacc : complexHeader s.params.rxBufCap cap cpxMark l = none)
    (hbody : r ++ a2.arrived = (op :: p ++ [k]) ++ left) (hp : p.length + 1 = l.toNat) :
    ∃ t, readComplexAck cap s = replyVerdict l op p k t ∧ t.unread = left ∧
      t.link.log = s.link.log ++ [.rxOk s.block.ep [cpxMark, l], .rxOk s.block.ep (op :: p ++ [k])] := by
  obtain ⟨t, hlink, hfirst, -, hgo⟩ := readComplexAck_header cap h hd hin1 hs
  have hep : (t.storeRx 0 [cpxMark, l]).block.ep = s.block.ep := by rw [storeRx_ep, hlink.block, setPhase_ep]
  have hrx : (t.storeRx 0 [cpxMark, l]).block.rxBuf.wf := by
    rw [storeRx_rxBuf, hlink.block]
    exact Buffer.writeAll_wf h.rxBuf 0 _
  have hheld : HeaderHeld cap l (t.storeRx 0 [cpxMark, l]) := .storeRx (by rw [hlink.params]; exact hacc)
  have hready : Receivable ((t.storeRx 0 [cpxMark, l]).setPhase .rxBody) := ⟨hlink.streams h.streams, hrx, hep ▸ h.ep⟩
  obtain ⟨u, hr, hlink', hsecond⟩ := rxRecv_answered (n := l.toNat + 1) hready hfirst.rxDraws
  have hstream : ((t.storeRx 0 [cpxMark, l]).setPhase .rxBody).unread ++ a2.arrived = (op :: p ++ [k]) ++ left := by
    rw [unread_setPhase, unread_storeRx, hfirst.unread, hbody]
  have hlen : l.toNat + 1 = (op :: p ++ [k]).length := by simp; omega
  have hc : Completes (l.toNat + 1) ((op :: p ++ [k]) ++ left) a2 := ⟨hin2, by rw [List.length_append]; omega⟩
  rw [hstream, recvCount, if_pos hc, recvCall, if_pos hc, hlen, List.take_left, List.drop_left, setPhase_ep, hep] at hsecond
  rw [hstream, recvResult, if_pos hc, hlen, List.take_left, ← hlen] at hr
  have hcall : firstCall s a1 = .rxOk s.block.ep [cpxMark, l] := by
    rw [firstCall, hs, if_pos ⟨hin1, by simp⟩]
    rfl
  refine ⟨u, (hgo hacc).trans (readComplexBody_ok hrx hheld.mark hheld.length hp hlink' hr), hsecond.unread, hsecond.log.trans ?_⟩
  rw [setPhase_link, storeRx_link, hfirst.log, hcall, List.append_assoc]
  rfl

/-- The first two bytes of a reply that comes in two receives are in the first, if it brings two. -/
theorem firstStream_of_whole {s : State} {a : RxAnswer} {b0 b1 : Byte} {rest more : List Byte} (h2 : 2 ≤ (firstStream s a).length)
    (h : firstStream s a ++ more = b0 :: b1 :: rest) : ∃ r, firstStream s a = b0 :: b1 :: r ∧ r ++ more = rest := by
  match hs : firstStream s a, h2 with
  | c0 :: c1 :: r, _ =>
    rw [hs] at h
    simp only [List.cons_append, List.cons.injEq] at h
    obtain ⟨rfl, rfl, hr⟩ := h
    exact ⟨r, rfl, hr⟩

section
variable {i : Instr} {opc arg : Byte} {cap : Nat} {ts : List TxDraw} {rs : List RxDraw} {s : State} {a1 a2 : RxAnswer} {l : Byte}
  {p left : List Byte}

/-- A data command on a good reply (rule R115): it comes to deliver the payload, in a state that keeps all but the LINK and PHASE
where it stood, with the frame and two receives logged. -/
theorem exec_data_delivers (hi : dataOf i = some (opc, arg, cap)) (h : SendsWhole s opc arg ts)
    (hd : s.link.rxDraws = .answer a1 :: .answer a2 :: rs) (hin1 : a1.inTime = true) (hin2 : a2.inTime = true)
    (h2 : 2 ≤ (firstStream s a1).length) (hp : p.length = cap) (hl : l.toNat = cap + 1)
    (hbytes : firstStream s a1 ++ a2.arrived =
      cpxMark :: l :: ((opc :: p ++ [checksum (cpxMark :: l :: opc :: p)]) ++ left)) :
    ∃ u, exec i s = .next (deliver opc p u).state ∧ SameAround s u ∧ SameResults s u ∧ u.unread = left ∧
      u.link.log = s.link.log ++ [.txSend s.block.ep (frameOf opc arg) (frameOf opc arg).length,
        .rxOk s.block.ep [cpxMark, l], .rxOk s.block.ep (opc :: p ++ [checksum (cpxMark :: l :: opc :: p)])] := by
  have hmax := dataCapacity_le (dataCapacity_of_dataOf (commandOf_of_dataOf hi) hi)
  have hsize := h.1.store.params.1
  obtain ⟨r, hs, hr⟩ := firstStream_of_whole h2 hbytes
  have hacc : complexHeader s.params.rxBufCap cap cpxMark l = none :=
    complexHeader_eq_none_iff.2 ⟨rfl, by omega, by omega, by omega⟩
  obtain ⟨t, hv, hleft, hlog⟩ :=
    readComplexAck_whole (s := s.sent opc arg ts) (receivable_sent h) hd hin1 hin2 hs hacc hr (by omega)
  rw [replyVerdict, if_pos rfl] at hv
  have hflow : (readComplexAck cap (s.sent opc arg ts)).andThen (complexCheck opc cap) = .go p
      (((t.storeRx 2 (opc :: p ++ [checksum (cpxMark :: l :: opc :: p)])).setAck (some l) (some opc) p).setPhase .check) := by
    rw [hv, Flow.andThen, complexCheck_positive cap (setAck_ackP ..), if_pos ⟨rfl, hp⟩]
  have hkeeps := runComplex_keeps opc cap cap .rxHdr (s.sent opc arg ts)
  rw [runComplex, hflow] at hkeeps
  obtain ⟨haround, hresults⟩ := sameAround_of_keeps hkeeps
  refine ⟨_, ?_, haround, hresults, hleft, hlog.trans ?_⟩
  · rw [exec_data hi h, hflow]
    rfl
  · exact List.append_assoc _ [_] [_, _]

end

/-- The 16-bit value of two bytes, the more significant first (rules R48 and R64). -/
theorem toNat_be16 (hi lo : Byte) : (be16 hi lo).toNat = hi.toNat * 256 + lo.toNat := by
  have hlo : lo.toNat < 2 ^ 8 := lo.isLt
  have hor := Nat.shiftLeft_add_eq_or_of_lt hlo hi.toNat
  have hhi := hi.isLt
  rw [be16, BitVec.toNat_or, BitVec.toNat_shiftLeft, BitVec.toNat_setWidth, BitVec.toNat_setWidth, Nat.mod_eq_of_lt (by omega),
    Nat.mod_eq_of_lt (by omega : lo.toNat < 2 ^ 16), Nat.shiftLeft_eq, Nat.mod_eq_of_lt (by omega), ← Nat.shiftLeft_eq, ← hor,
    Nat.shiftLeft_eq]

end Sys2Proof.Machine

namespace Sys2Proof.Proofs

open Sys2Proof Sys2Proof.Machine

/-- Settles O11: the reported count is the smaller of the drawn one and the frame's length. -/
theorem txSendReportsACount : Obligations.TxSendReportsACount := by
  intro f k ds s hd
  exact ⟨_, _, txSend_sent hd, Nat.min_le_right .., fun hk => Nat.min_eq_left hk, rfl, rfl, rfl, rfl, rfl⟩

/-- Settles O12: a listed answer completes the receive or times out, and the count consumed says which bytes are left. -/
theorem rxRecvIsAllOrNothing : Obligations.RxRecvIsAllOrNothing := by
  intro n a ds s hstore hep hn hd
  obtain ⟨t, hr, hlink, hrecv⟩ := rxRecv_answered (n := n) ⟨hstore.streams, hstore.rx_wf, hep⟩ hd
  constructor
  · intro hc
    rw [recvResult, if_pos hc] at hr
    rw [recvCount, if_pos hc] at hrecv
    exact ⟨t, hr, hrecv.unread, hlink.block, hrecv.rxDraws⟩
  · intro hc
    rw [recvResult, if_neg hc] at hr
    rw [recvCount, if_neg hc] at hrecv
    exact ⟨t, _, hr, by omega, fun hlost => by omega, hrecv.unread, hlink.block, hrecv.rxDraws⟩

/-- Settles O13: both readers begin on the settled stream, where the old bytes are discarded. -/
theorem discardedBytesAreNotSeen : Obligations.DiscardedBytesAreNotSeen := by
  intro s e old hstore he hq
  have hset : s.link.unread.set e old = (s.setPhase .rxHdr).unreadSet old := by rw [State.unreadSet, setPhase_ep, he]; rfl
  have hsettle := settleUnread_of_discarded (s := s.setPhase .rxHdr) hstore.streams hq old
  rw [hset]
  exact ⟨readSimpleAck_congr hsettle, readComplexAck_congr hsettle⟩

/-- Settles O21: the payload of a good reply is the two concentrations. -/
theorem readResultsCompletes : Obligations.ReadResultsCompletes := by
  intro arg f1 f0 c1 c0 s ts a1 a2 rs left h hd hin1 hin2 h2 hbytes
  obtain ⟨u, hx, haround, ⟨-, -, hcoeff⟩, hleft, hlog⟩ :=
    exec_data_delivers (i := .readResults arg) (p := [f1, f0, c1, c0]) (l := 0x05) rfl h hd hin1 hin2 h2 rfl rfl hbytes
  exact ⟨_, be16 f1 f0, be16 c1 c0, hx, ⟨rfl, rfl, rfl⟩, haround, rfl, toNat_be16 f1 f0, rfl, toNat_be16 c1 c0, hcoeff, hleft,
    hlog⟩

/-- Settles O22: the payload of a good reply is the coefficient. -/
theorem readCoeffCompletes : Obligations.ReadCoeffCompletes := by
  intro arg v s ts a1 a2 rs left h hd hin1 hin2 h2 hbytes
  obtain ⟨u, hx, haround, ⟨hfine, hcoarse, -⟩, hleft, hlog⟩ :=
    exec_data_delivers (i := .readCoeff arg) (p := [v]) (l := 0x02) rfl h hd hin1 hin2 h2 rfl rfl hbytes
  exact ⟨_, hx, ⟨rfl, rfl, rfl⟩, haround, rfl, hfine, hcoarse, hleft, hlog⟩

end Sys2Proof.Proofs
end

section
/-!
PROOFS. A command PHASE by PHASE (20_memory.md rules R51 and R53): from each PHASE the ENGINE waits there, ends, or goes on as from the
next PHASE.
-/
namespace Sys2Proof.Machine

open Sys2Proof

section
variable {opc : Byte} {cap : Nat} {s t : State}

/-! ### From BUILD to TX -/

/-- Every command's payload is accepted, so from BUILD a command comes to TX with some frame built. -/
theorem bodyOf_build_frame (hm : opc ∈ commandOpcodes) (s : State) :
    ∃ f n, bodyOf opc .build s = bodyOf opc .tx ((s.setPhase .build).setFrame f n) := by
  cases hd : dataCapacity opc with
  | none =>
    obtain ⟨habsent, hmax⟩ := simplePayload_accepted opc s
    refine ⟨frameBytes opc (simplePayload opc s).1 (simplePayload opc s).2, (simplePayload opc s).1 + 4, ?_⟩
    rw [bodyOf_simple hm hd, bodyOf_simple hm hd, runSimple, sendFrame_accepted opc s habsent hmax]
    rfl
  | some cap =>
    refine ⟨frameBytes opc 0 none, 0 + 4, ?_⟩
    rw [bodyOf_data hd, bodyOf_data hd, runComplex, sendFrame_accepted opc s (fun _ => rfl) (by decide)]
    rfl

/-! ### From TX to RX_HDR -/

/-- Where the send waits, so does the command. -/
theorem bodyOf_tx_of_wait (hm : opc ∈ commandOpcodes) (h : sendBuilt s = .wait t) : bodyOf opc .tx s = t := by
  cases hd : dataCapacity opc with
  | none => rw [bodyOf_simple hm hd, runSimple, h]; rfl
  | some cap => rw [bodyOf_data hd, runComplex, h]; rfl

/-- After the send the command goes on as from RX_HDR. -/
theorem bodyOf_tx_of_go (hm : opc ∈ commandOpcodes) (h : sendBuilt s = .go () t) : bodyOf opc .tx s = bodyOf opc .rxHdr t := by
  cases hd : dataCapacity opc with
  | none => rw [bodyOf_simple hm hd, bodyOf_simple hm hd, runSimple, h]; rfl
  | some cap => rw [bodyOf_data hd, bodyOf_data hd, runComplex, h]; rfl

/-- The send begins by setting PHASE. -/
theorem bodyOf_tx_setPhase (hm : opc ∈ commandOpcodes) (s : State) : bodyOf opc .tx (s.setPhase .tx) = bodyOf opc .tx s := by
  cases hd : dataCapacity opc with
  | none => rw [bodyOf_simple hm hd, bodyOf_simple hm hd]; rfl
  | some cap => rw [bodyOf_data hd, bodyOf_data hd]; rfl

/-! ### From RX_HDR on -/

theorem bodyOf_rxHdr_simple (hm : opc ∈ commandOpcodes) (hd : dataCapacity opc = none) (s : State) :
    bodyOf opc .rxHdr s = ((readSimpleAck s).andThen simpleCheck).state :=
  bodyOf_simple hm hd .rxHdr s

theorem bodyOf_rxHdr_data (hd : dataCapacity opc = some cap) (s : State) :
    bodyOf opc .rxHdr s = (((readComplexAck cap s).andThen (complexCheck opc cap)).andThen (deliver opc)).state :=
  bodyOf_data hd .rxHdr s

theorem bodyOf_rxBody_data (hd : dataCapacity opc = some cap) (s : State) :
    bodyOf opc .rxBody s = (((readComplexBody s).andThen (complexCheck opc cap)).andThen (deliver opc)).state :=
  bodyOf_data hd .rxBody s

/-- Where the first receive waits, so does the command. -/
theorem bodyOf_rxHdr_of_wait (hm : opc ∈ commandOpcodes)
    (h : rxRecv 2 (settleUnread (s.setPhase .rxHdr)) = (.pending, t)) : bodyOf opc .rxHdr s = t := by
  cases hd : dataCapacity opc with
  | none => simp only [bodyOf_rxHdr_simple hm hd, readSimpleAck, h]; rfl
  | some cap => simp only [bodyOf_rxHdr_data hd, readComplexAck, h]; rfl

/-- The first receive begins on the settled stream. -/
theorem bodyOf_rxHdr_congr (hm : opc ∈ commandOpcodes) (h : settleUnread (s.setPhase .rxHdr) = settleUnread (t.setPhase .rxHdr)) :
    bodyOf opc .rxHdr s = bodyOf opc .rxHdr t := by
  cases hd : dataCapacity opc with
  | none => rw [bodyOf_rxHdr_simple hm hd, bodyOf_rxHdr_simple hm hd, readSimpleAck_congr h]
  | some cap => rw [bodyOf_rxHdr_data hd, bodyOf_rxHdr_data hd, readComplexAck_congr h]

/-- Behind an accepted header the command goes on as from RX_BODY. -/
theorem bodyOf_rxHdr_of_body (hd : dataCapacity opc = some cap) (h : readComplexAck cap s = readComplexBody t) :
    bodyOf opc .rxHdr s = bodyOf opc .rxBody t := by
  rw [bodyOf_rxHdr_data hd, bodyOf_rxBody_data hd, h]

/-- Where the second receive waits, so does the command. -/
theorem bodyOf_rxBody_of_wait (hd : dataCapacity opc = some cap) (h : readComplexBody s = .wait t) : bodyOf opc .rxBody s = t := by
  rw [bodyOf_rxBody_data hd, h]
  rfl

/-- The second receive begins by setting PHASE. -/
theorem bodyOf_rxBody_setPhase (hd : dataCapacity opc = some cap) (s : State) :
    bodyOf opc .rxBody (s.setPhase .rxBody) = bodyOf opc .rxBody s := by
  rw [bodyOf_rxBody_data hd, bodyOf_rxBody_data hd]
  rfl

/-- A command is never in IDLE or CHECK between steps, nor a simple command in RX_BODY: there the model's body leaves the state as it
is. -/
theorem bodyOf_of_no_call (p : Phase) (h : p = .idle ∨ p = .check ∨ p = .rxBody ∧ dataCapacity opc = none) (s : State) :
    bodyOf opc p s = s := by
  by_cases hm : opc ∈ commandOpcodes
  · cases hd : dataCapacity opc with
    | none =>
      rw [bodyOf_simple hm hd]
      obtain rfl | rfl | ⟨rfl, -⟩ := h <;> rfl
    | some cap =>
      rw [bodyOf_data hd]
      obtain rfl | rfl | ⟨-, hd'⟩ := h
      · rfl
      · rfl
      · simp [hd] at hd'
  · exact bodyOf_of_not_command hm p s

/-! ### A TxSend that has not returned (rule R156) -/

theorem sendBuilt_pending {ts : List TxDraw} (h : s.link.txDraws = .pending :: ts) :
    sendBuilt s = .wait ((s.setPhase .tx).setLink { s.link with txDraws := ts }) := by
  have hsend : txSend (s.setPhase .tx).txFrame (s.setPhase .tx) = (none, (s.setPhase .tx).setLink { s.link with txDraws := ts }) := by
    simp only [txSend, Link.nextTx, setPhase_link, h]
  simp only [sendBuilt, transmit, hsend, Flow.andThen]

/-- A command whose TxSend is listed as unanswered rests in TX, started. -/
theorem exec_of_pending {i : Instr} {arg : Byte} {ts : List TxDraw} (hi : commandOf i = some (opc, arg)) (hr : Ready s)
    (h : s.link.txDraws = .pending :: ts) :
    exec i s = .next (((s.started opc arg).setPhase .tx).setLink { s.link with txDraws := ts }) := by
  have hm := mem_commandOpcodes_of_commandOf hi
  rw [exec_of_ready hi hr, bodyOf_tx_of_wait hm (sendBuilt_pending (s := s.started opc arg) h)]
  rfl

/-- The frame that a started command sends. -/
theorem started_frame {arg : Byte} (hm : opc ∈ commandOpcodes) (hw : s.block.txBuf.wf) :
    (s.started opc arg).txFrame = frameOf opc arg ∧ (s.started opc arg).block.txLen = some (frameOf opc arg).length := by
  rw [← Proofs.commandFramesAreTheTable opc hm arg]
  exact ⟨txFrame_setFrame (s := s.latch opc arg) hw _, rfl⟩

end

end Sys2Proof.Machine

namespace Sys2Proof.Proofs

open Sys2Proof Sys2Proof.Machine

/-- Settles O26: the started command rests before anything has gone over the link. -/
theorem unansweredSendWaitsInTx : Obligations.UnansweredSendWaitsInTx := by
  intro i opc arg s ts hi hinv hr hd
  obtain ⟨hframe, hlen⟩ := started_frame (arg := arg) (mem_commandOpcodes_of_commandOf hi) hinv.store.tx_wf
  exact ⟨_, exec_of_pending hi hr hd, rfl, rfl, rfl, rfl, hframe, hlen, rfl, ⟨rfl, rfl, rfl, rfl, rfl⟩, ⟨rfl, rfl, rfl⟩, rfl⟩

end Sys2Proof.Proofs
end

section
/-!
PROOFS. What a move of a command can do, said once: what its parts carry through with the link calls they log, and how it rests or
ends. The frames, the statuses and the one attempt follow (10_state.md rule R22, 43_commands.md rules R109, R123 and R124).
-/
namespace Sys2Proof.Machine

open Sys2Proof

/-! ### What a part of a command carries through -/

/-- From `s` to `t` a part of a command ran that logged the link calls `l`: CODE, STAT.BUSY and what an exchange keeps are unchanged,
the LINK has moved on, and only the bound endpoint's stream was touched. -/
structure Carries (l : List LinkCall) (s t : State) : Prop extends Keeps s t where
  code : t.block.code = s.block.code
  busy : t.block.busy = s.block.busy
  log : t.link.log = s.link.log ++ l
  later : LaterLink s.link t.link
  rxDraws : t.link.rxDraws <:+ s.link.rxDraws
  streams : s.link.unread.wf → t.link.unread.wf
  others : s.link.unread.wf → ∀ e, s.block.ep ≠ some e → t.link.unread.get e = s.link.unread.get e

section
variable {l l' : List LinkCall} {s t u : State}

theorem Carries.trans (h : Carries l s t) (k : Carries l' t u) : Carries (l ++ l') s u where
  toKeeps := h.toKeeps.trans k.toKeeps
  code := k.code.trans h.code
  busy := k.busy.trans h.busy
  log := by rw [k.log, h.log, List.append_assoc]
  later := h.later.trans k.later
  rxDraws := k.rxDraws.trans h.rxDraws
  streams := k.streams ∘ h.streams
  others hw e he := (k.others (h.streams hw) e (h.ep ▸ he)).trans (h.others hw e he)

/-- What leaves the LINK as it is logs nothing. -/
theorem Carries.of_sameLink (h : Keeps s t) (hc : t.block.code = s.block.code) (hb : t.block.busy = s.block.busy)
    (hl : t.link = s.link) : Carries [] s t where
  toKeeps := h
  code := hc
  busy := hb
  log := by rw [hl, List.append_nil]
  later := hl ▸ .refl s.link
  rxDraws := hl ▸ List.suffix_refl _
  streams hw := hl ▸ hw
  others _ _ _ := by rw [hl]

theorem Carries.refl (s : State) : Carries [] s s := .of_sameLink (.refl s) rfl rfl rfl

theorem Carries.setPhase (p : Phase) (s : State) : Carries [] s (s.setPhase p) := .of_sameLink (.setPhase p s) rfl rfl rfl

theorem Carries.storeRx (h : Carries l s t) (i : Nat) (bs : List Byte) : Carries l s (t.storeRx i bs) :=
  List.append_nil l ▸ h.trans (.of_sameLink (.storeRx i bs t) rfl rfl rfl)

theorem Carries.setAck (h : Carries l s t) (a op : Option Byte) (p : List Byte) : Carries l s (t.setAck a op p) :=
  List.append_nil l ▸ h.trans (.of_sameLink (.setAck a op p t) rfl rfl rfl)

/-- What touches the LINK alone. -/
theorem Carries.of_linkOnly (h : LinkOnly s t) (hl : t.link.log = s.link.log ++ l) (hlater : LaterLink s.link t.link)
    (hrx : t.link.rxDraws <:+ s.link.rxDraws)
    (ho : s.link.unread.wf → ∀ e, s.block.ep ≠ some e → t.link.unread.get e = s.link.unread.get e) : Carries l s t where
  toKeeps := .of_block h.block h.port h.params
  code := by rw [h.block]
  busy := by rw [h.block]
  log := hl
  later := hlater
  rxDraws := hrx
  streams := h.streams
  others := ho

/-! ### The link primitives and what they log -/

/-- Only the bound endpoint's stream is replaced. -/
theorem get_unreadSet_other (hw : s.link.unread.wf) {e : Nat} (he : s.block.ep ≠ some e) (bs : List Byte) :
    (s.unreadSet bs).get e = s.link.unread.get e := by
  unfold State.unreadSet
  cases hep : s.block.ep with
  | none => rfl
  | some ep => exact Streams.get_set_other _ bs (fun h => he (hep.trans (congrArg some h.symm))) hw

/-- A TxSend draws from the LINK; it has not returned and logs nothing, or it is logged with the count it returned. -/
theorem txSend_carries (f : List Byte) (s : State) :
    ∃ t, (txSend f s = (none, t) ∧ s.link.nextTx = (.pending, t.link) ∧ Carries [] s t) ∨
      ∃ k, txSend f s = (some k, t) ∧ Carries [.txSend s.block.ep f k] s t := by
  obtain ⟨-, -, -, hu, hrx⟩ := txSend_keeps f s
  have hcarries : ∀ l, (txSend f s).2.link.log = s.link.log ++ l → Carries l s (txSend f s).2 := fun l hl =>
    .of_linkOnly (.txSend f s) hl (txSend_later f s) (hrx ▸ List.suffix_refl _) fun _ _ _ => by rw [hu]
  refine ⟨(txSend f s).2, ?_⟩
  obtain ⟨hnone, hlog⟩ | ⟨k, -, hsome, hlog⟩ := txSend_cases f s
  · refine .inl ⟨Prod.ext hnone rfl, ?_, hcarries [] (hlog.trans (List.append_nil _).symm)⟩
    unfold txSend at hnone ⊢
    split at hnone
    · next l hl => rw [hl]; rfl
    · cases hnone
  · exact .inr ⟨k, Prod.ext hsome rfl, hcarries _ hlog⟩

theorem nextRx_rxDraws (l : Link) : l.nextRx.2.rxDraws <:+ l.rxDraws := by
  unfold Link.nextRx
  split
  · next d ds h => exact h ▸ List.suffix_cons d ds
  · next h => exact List.suffix_refl _

/-- Only a listed draw leaves a receive unanswered (rule R156: "Every RxRecv ends"). -/
theorem rxDraws_of_pending {l m : Link} (h : l.nextRx = (.pending, m)) : m.rxDraws.length < l.rxDraws.length := by
  unfold Link.nextRx at h
  split at h
  · next d ds hd =>
    obtain ⟨rfl, rfl⟩ := Prod.mk.inj h
    simp [hd]
  · cases h

/-- A receive on this endpoint, as it is logged. -/
def IsReceive (ep : Option Nat) (c : LinkCall) : Prop := (∃ bs, c = .rxOk ep bs) ∨ ∃ n bs, c = .rxTimeout ep n bs

/-- An RxRecv is unanswered by a listed draw and logs nothing, or it is logged and times out or brings the bytes asked for. -/
theorem rxRecv_carries (n : Nat) (s : State) :
    ∃ t, LinkOnly s t ∧
      ((rxRecv n s = (.pending, t) ∧ Carries [] s t ∧ t.link.rxDraws.length < s.link.rxDraws.length) ∨
        ∃ c, IsReceive s.block.ep c ∧ Carries [c] s t ∧
          (rxRecv n s = (.timeout, t) ∨ ∃ bs, bs.length = n ∧ rxRecv n s = (.ok bs, t))) := by
  refine ⟨(rxRecv n s).2, .rxRecv n s, ?_⟩
  have hlink := LinkOnly.rxRecv n s
  have hlater := rxRecv_later n s
  have hrx := nextRx_rxDraws s.link
  obtain ⟨hu, hlog, -⟩ := nextRx_keeps s.link
  generalize hnext : s.link.nextRx = x at hrx hu hlog
  obtain ⟨_ | a, m⟩ := x
  · have hr : rxRecv n s = (.pending, s.setLink m) := by simp only [rxRecv, hnext]
    rw [hr] at hlink hlater ⊢
    refine .inl ⟨rfl, .of_linkOnly hlink (hlog.trans (List.append_nil _).symm) hlater hrx fun _ _ _ => ?_, rxDraws_of_pending hnext⟩
    rw [setLink_link, hu]
  · have hr : rxRecv n s = rxAnswer n a (s.setLink m) := by simp only [rxRecv, hnext]
    have hok := fun bs (h : rxRecv n s = (.ok bs, (rxRecv n s).2)) => rxRecv_ok_length h
    rw [hr, rxAnswer_eq] at hlink hlater hok ⊢
    have hother : s.link.unread.wf → ∀ e, s.block.ep ≠ some e → ∀ bs, ((s.setLink m).unreadSet bs).get e = s.link.unread.get e :=
      fun hw e he bs => (get_unreadSet_other (s := s.setLink m) (hu ▸ hw) he bs).trans (congrArg (Streams.get · e) hu)
    have hcarries := Carries.of_linkOnly hlink (congrArg (· ++ [_]) hlog) hlater hrx fun hw e he => hother hw e he _
    refine .inr ⟨_, ?_, hcarries, ?_⟩
    · unfold recvCall
      split_ifs
      · exact .inl ⟨_, rfl⟩
      · exact .inr ⟨_, _, rfl⟩
    · unfold recvResult at hok ⊢
      split_ifs at hok ⊢
      · exact .inr ⟨_, hok _ rfl, rfl⟩
      · exact .inl rfl

theorem settleUnread_carries (s : State) : Carries [] s (settleUnread s) := by
  obtain ⟨-, -, -, htx, hrx, hfree, hlog⟩ := settleUnread_keeps s
  have hlive : (settleUnread s).link.txLive = s.link.txLive := by
    unfold settleUnread
    split_ifs <;> rfl
  refine .of_linkOnly (.settleUnread s) (hlog.trans (List.append_nil _).symm)
    ⟨hlive, htx ▸ List.suffix_refl _, hfree.ge⟩ (hrx ▸ List.suffix_refl _) fun hw e he => ?_
  unfold settleUnread
  split_ifs
  · rfl
  · exact get_unreadSet_other hw he []

/-! ### The parts and the calls they make -/

/-- The send waits with its TxSend unanswered, or it has made its one TxSend, which ends the command or lets it go on. -/
theorem sendBuilt_carries (s : State) :
    ∃ t, (sendBuilt s = .wait t ∧ Carries [] s t ∧ t.block.phase = .tx ∧ s.link.nextTx = (.pending, t.link)) ∨
      ∃ k, Carries [.txSend s.block.ep s.txFrame k] s t ∧
        (sendBuilt s = .ended (finish .txIncomplete t) ∨ sendBuilt s = .go () t) := by
  have hphase := Carries.setPhase .tx s
  have hlink := LinkOnly.txSend (s.setPhase .tx).txFrame (s.setPhase .tx)
  obtain ⟨t, ⟨hsend, hnext, hc⟩ | ⟨k, hsend, hc⟩⟩ := txSend_carries (s.setPhase .tx).txFrame (s.setPhase .tx)
  · rw [hsend] at hlink
    exact ⟨t, .inl ⟨by simp only [sendBuilt, transmit, hsend, Flow.andThen], hphase.trans hc, by rw [hlink.block]; rfl, hnext⟩⟩
  · refine ⟨t, .inr ⟨k, hphase.trans hc, ?_⟩⟩
    by_cases hk : k < t.block.txLen.getD 0
    · exact .inl (by simp only [sendBuilt, transmit, hsend, if_pos hk, Flow.andThen])
    · exact .inr (by simp only [sendBuilt, transmit, hsend, if_neg hk, Flow.andThen])

/-- The first receive waits in RX_HDR, or is made, and times out or brings two bytes. -/
theorem rxHeader_carries (s : State) :
    ∃ t, (rxRecv 2 (settleUnread (s.setPhase .rxHdr)) = (.pending, t) ∧ Carries [] s t ∧ t.block.phase = .rxHdr ∧
        t.link.rxDraws.length < s.link.rxDraws.length) ∨
      ∃ c, IsReceive s.block.ep c ∧ Carries [c] s t ∧ (rxRecv 2 (settleUnread (s.setPhase .rxHdr)) = (.timeout, t) ∨
        ∃ b0 b1, rxRecv 2 (settleUnread (s.setPhase .rxHdr)) = (.ok [b0, b1], t)) := by
  have hsettled := (Carries.setPhase .rxHdr s).trans (settleUnread_carries (s.setPhase .rxHdr))
  obtain ⟨hb, -, -, -, hrx, -⟩ := settleUnread_keeps (s.setPhase .rxHdr)
  obtain ⟨t, hlink, ⟨hr, hc, hless⟩ | ⟨c, hreceive, hc, hr⟩⟩ := rxRecv_carries 2 (settleUnread (s.setPhase .rxHdr))
  · refine ⟨t, .inl ⟨hr, hsettled.trans hc, by rw [hlink.block, hb]; rfl, ?_⟩⟩
    rwa [hrx] at hless
  · refine ⟨t, .inr ⟨c, by rwa [hb] at hreceive, hsettled.trans hc, ?_⟩⟩
    obtain hr | ⟨bs, hlen, hr⟩ := hr
    · exact .inl hr
    · obtain ⟨b0, b1, rfl⟩ := List.length_eq_two.1 hlen
      exact .inr ⟨b0, b1, hr⟩

/-- Whatever RXBUF holds, the second receive waits in RX_BODY, or is made and the reader returns. -/
theorem readComplexBody_carries (s : State) :
    ∃ t, (readComplexBody s = .wait t ∧ Carries [] s t ∧ t.block.phase = .rxBody ∧
        t.link.rxDraws.length < s.link.rxDraws.length) ∨
      ∃ c a, IsReceive s.block.ep c ∧ Carries [c] s t ∧ readComplexBody s = .go a t := by
  have hphase := Carries.setPhase .rxBody s
  obtain ⟨t, hlink, ⟨hr, hc, hless⟩ | ⟨c, hreceive, hc, hr | ⟨bs, -, hr⟩⟩⟩ :=
    rxRecv_carries (s.declaredLength + 1) (s.setPhase .rxBody)
  · exact ⟨t, .inl ⟨by simp only [readComplexBody, hr], hphase.trans hc, by rw [hlink.block]; rfl, hless⟩⟩
  · exact ⟨t, .inr ⟨c, .error, hreceive, hphase.trans hc, by simp only [readComplexBody, hr]⟩⟩
  · have hstored := (hphase.trans hc).storeRx 2 bs
    by_cases hk : some (checksum ((t.storeRx 2 bs).block.rxBuf.slice 0 (s.declaredLength + 2))) =
        (t.storeRx 2 bs).block.rxBuf.read (s.declaredLength + 2)
    · have hset := hstored.setAck ((t.storeRx 2 bs).block.rxBuf.read 1) ((t.storeRx 2 bs).block.rxBuf.read 2)
        ((t.storeRx 2 bs).block.rxBuf.slice 3 (s.declaredLength + 2))
      exact ⟨_, .inr ⟨c, .positive, hreceive, hset, by simp only [readComplexBody, hr, if_pos hk]⟩⟩
    · exact ⟨_, .inr ⟨c, .badChecksum, hreceive, hstored, by simp only [readComplexBody, hr, if_neg hk]⟩⟩

end

/-! ### How a move of a command ends -/

/-- What an end with this status delivers: nothing, or, with OK, the results of the data command (rules R118 and R120). -/
inductive Delivered (opc : Byte) (st : Status) (u : State) : State → Prop
  | nothing : Delivered opc st u u
  | results (fine coarse : Half) : opc = 0x04 → st = .ok → Delivered opc st u (u.setResults fine coarse)
  | coeff (v : Byte) : opc = 0x10 → st = .ok → Delivered opc st u (u.setCoeff v)

/-- A move of the command from `s`: it rests in `t`, or ends there, where `W` relates the calls made and `t`, and `S` holds of the
status it ends with. -/
inductive Moved (opc : Byte) (W : List LinkCall → State → Prop) (S : Status → Prop) (s : State) : State → Prop
  | rests {l : List LinkCall} {t : State} : Carries l s t → W l t → Moved opc W S s t
  | ends {l : List LinkCall} {u v : State} {st : Status} :
    Carries l s u → Delivered opc st u v → W l (finish st v) → S st → Moved opc W S s (finish st v)

theorem Moved.mono {opc : Byte} {W W' : List LinkCall → State → Prop} {S S' : Status → Prop} {s t : State} (h : Moved opc W S s t)
    (hW : ∀ l u, W l u → W' l u) (hS : ∀ st, S st → S' st) : Moved opc W' S' s t := by
  cases h with
  | rests hc hw => exact .rests hc (hW _ _ hw)
  | ends hc hd hw hs => exact .ends hc hd (hW _ _ hw) (hS _ hs)

/-- A move, whatever it calls and however it ends. -/
theorem Moved.weaken {opc : Byte} {W : List LinkCall → State → Prop} {S : Status → Prop} {s t : State} (h : Moved opc W S s t) :
    Moved opc (fun _ _ => True) (fun _ => True) s t :=
  h.mono (fun _ _ _ => trivial) fun _ _ => trivial

/-- Calls made before come first. -/
theorem Moved.after {opc : Byte} {W W' : List LinkCall → State → Prop} {S S' : Status → Prop} {l : List LinkCall} {s u t : State}
    (hc : Carries l s u) (h : Moved opc W S u t) (hW : ∀ l' v, W l' v → W' (l ++ l') v) (hS : ∀ st, S st → S' st) :
    Moved opc W' S' s t := by
  cases h with
  | rests hc' hw => exact .rests (hc.trans hc') (hW _ _ hw)
  | ends hc' hd hw hs => exact .ends (hc.trans hc') hd (hW _ _ hw) (hS _ hs)

/-- The statuses that end a command after its send (rule R124). -/
def ReplyStatus (opc : Byte) (st : Status) : Prop :=
  st ≠ .badArgument ∧ st ≠ .txIncomplete ∧ (dataCapacity opc = none → st ≠ .badChecksum)

/-- The statuses that end a command (rule R124). -/
def CommandStatus (opc : Byte) (st : Status) : Prop := st ≠ .badArgument ∧ (dataCapacity opc = none → st ≠ .badChecksum)

/-- The calls of a move that begins behind the send, with `n` receives left to make: receives only, as many as lead to the PHASE
reached; where it rests, a listed draw left its receive unanswered. -/
structure ReplyCalls (opc : Byte) (n : Nat) (s : State) (l : List LinkCall) (t : State) : Prop where
  receives : Receives s.block.ep l
  phase : t.block.phase ≠ .tx
  budget : l.length + receivesLeft opc t.block.phase ≤ n
  unanswered : t.block.busy = true → t.link.rxDraws.length < s.link.rxDraws.length

/-- The calls of a move from TX: none while the send is unanswered, or the one TxSend and the calls of a reply. -/
def SendCalls (opc : Byte) (s : State) (l : List LinkCall) (t : State) : Prop :=
  l = [] ∧ t.block.phase = .tx ∧ s.link.nextTx = (.pending, t.link) ∨
    ∃ k rest, l = .txSend s.block.ep s.txFrame k :: rest ∧ ReplyCalls opc (receivesLeft opc .tx) s rest t

section
variable {opc : Byte} {n : Nat} {s t u : State} {c : LinkCall} {l : List LinkCall}

theorem ReplyCalls.ended (hr : Receives s.block.ep l) (hn : l.length ≤ n) (st : Status) (v : State) :
    ReplyCalls opc n s l (finish st v) :=
  ⟨hr, by simp, by simpa [receivesLeft] using hn, by simp⟩

theorem receives_nil (ep : Option Nat) : Receives ep [] := fun _ h => absurd h List.not_mem_nil

theorem receives_singleton {ep : Option Nat} (h : IsReceive ep c) : Receives ep [c] := by
  intro c' hc'
  obtain rfl := List.mem_singleton.1 hc'
  exact h

/-- A receive made before leaves one less to make. -/
theorem ReplyCalls.cons (hc : Carries [c] s u) (hreceive : IsReceive s.block.ep c) (h : ReplyCalls opc n u l t) :
    ReplyCalls opc (n + 1) s ([c] ++ l) t where
  receives c' hc' := by
    rcases List.mem_append.1 hc' with hc' | hc'
    · exact receives_singleton hreceive c' hc'
    · exact hc.ep ▸ h.receives c' hc'
  phase := h.phase
  budget := by
    have := h.budget
    rw [List.length_append, List.length_singleton]
    omega
  unanswered hb := (h.unanswered hb).trans_le hc.rxDraws.length_le

/-! ### The ends of a command -/

theorem replyStatus_of_data {cap : Nat} {st : Status} (hd : dataCapacity opc = some cap) (h1 : st ≠ .badArgument)
    (h2 : st ≠ .txIncomplete) : ReplyStatus opc st :=
  ⟨h1, h2, fun h => by simp [h] at hd⟩

/-- Delivery ends a data command, with OK and its results or with BAD_RESPONSE. -/
theorem deliver_ends {cap : Nat} (hd : dataCapacity opc = some cap) (p : List Byte) (u : State) :
    ∃ st v, (deliver opc p u).state = finish st v ∧ Delivered opc st u v ∧ ReplyStatus opc st := by
  unfold deliver
  split_ifs with h4
  · unfold deliverResults
    split
    · exact ⟨.ok, _, rfl, .results _ _ h4 rfl, replyStatus_of_data hd nofun nofun⟩
    · exact ⟨.badResponse, _, rfl, .nothing, replyStatus_of_data hd nofun nofun⟩
  · have h10 : opc = 0x10 := by
      unfold dataCapacity at hd
      split_ifs at hd with h
      exact h
    unfold deliverCoeff
    split
    · exact ⟨.ok, _, rfl, .coeff _ h10 rfl, replyStatus_of_data hd nofun nofun⟩
    · exact ⟨.badResponse, _, rfl, .nothing, replyStatus_of_data hd nofun nofun⟩

/-- The ack outcome ends a data command: the expectation check, or what is delivered behind it. -/
theorem complexEnd_ends {cap : Nat} (hd : dataCapacity opc = some cap) (n : Nat) (a : AckOutcome) (u : State) :
    ∃ st v, ((complexCheck opc n a u).andThen (deliver opc)).state = finish st v ∧
      Delivered opc st (u.setPhase .check) v ∧ ReplyStatus opc st := by
  cases a with
  | negative => exact ⟨.negativeAck, _, rfl, .nothing, replyStatus_of_data hd nofun nofun⟩
  | badChecksum => exact ⟨.badChecksum, _, rfl, .nothing, replyStatus_of_data hd nofun nofun⟩
  | error => exact ⟨.badResponse, _, rfl, .nothing, replyStatus_of_data hd nofun nofun⟩
  | positive =>
    cases hp : u.block.ackP with
    | none =>
      refine ⟨.badResponse, u.setPhase .check, ?_, .nothing, replyStatus_of_data hd nofun nofun⟩
      simp only [complexCheck, setPhase_ackP, hp]
      rfl
    | some p =>
      rw [complexCheck_positive n hp]
      split_ifs
      · exact deliver_ends hd p (u.setPhase .check)
      · exact ⟨.badResponse, _, rfl, .nothing, replyStatus_of_data hd nofun nofun⟩

/-- The outcome of a simple ack is no BadChecksum (rule R95). -/
theorem classifySimple_ne_badChecksum (bs : List Byte) : classifySimple bs ≠ .badChecksum := by
  unfold classifySimple
  split_ifs <;> nofun

theorem replyStatus_ackStatus {a : AckOutcome} (h : a ≠ .badChecksum) : ReplyStatus opc (ackStatus a) := by
  cases a with
  | badChecksum => exact absurd rfl h
  | positive | negative | error => exact ⟨nofun, nofun, fun _ => nofun⟩

/-- A command whose reader has returned ends. -/
theorem moved_of_simpleCheck {a : AckOutcome} (hc : Carries l s u) (hr : Receives s.block.ep l) (hn : l.length ≤ n)
    (ha : a ≠ .badChecksum) : Moved opc (ReplyCalls opc n s) (ReplyStatus opc) s (simpleCheck a u).state :=
  .ends (List.append_nil l ▸ hc.trans (.setPhase .check u)) .nothing (.ended hr hn _ _) (replyStatus_ackStatus ha)

theorem moved_of_complexCheck {cap : Nat} (hd : dataCapacity opc = some cap) (a : AckOutcome) (hc : Carries l s u)
    (hr : Receives s.block.ep l) (hn : l.length ≤ n) :
    Moved opc (ReplyCalls opc n s) (ReplyStatus opc) s ((complexCheck opc cap a u).andThen (deliver opc)).state := by
  obtain ⟨st, v, hend, hdel, hst⟩ := complexEnd_ends hd cap a u
  rw [hend]
  exact .ends (List.append_nil l ▸ hc.trans (.setPhase .check u)) hdel (.ended hr hn _ _) hst

/-! ### The moves from each PHASE -/

theorem bodyOf_rxBody_moved {cap : Nat} (hd : dataCapacity opc = some cap) (s : State) :
    Moved opc (ReplyCalls opc 1 s) (ReplyStatus opc) s (bodyOf opc .rxBody s) := by
  obtain ⟨t, ⟨hr, hc, hp, hless⟩ | ⟨c, a, hreceive, hc, hr⟩⟩ := readComplexBody_carries s
  · rw [bodyOf_rxBody_of_wait hd hr]
    exact .rests hc ⟨receives_nil _, by simp [hp], by simp [hp, receivesLeft], fun _ => hless⟩
  · rw [bodyOf_rxBody_data hd, hr]
    exact moved_of_complexCheck hd a hc (receives_singleton hreceive) le_rfl

theorem bodyOf_rxHdr_moved (hm : opc ∈ commandOpcodes) (s : State) :
    Moved opc (ReplyCalls opc (receivesLeft opc .rxHdr) s) (ReplyStatus opc) s (bodyOf opc .rxHdr s) := by
  obtain ⟨t, ⟨hr, hc, hp, hless⟩ | ⟨c, hreceive, hc, hr⟩⟩ := rxHeader_carries s
  · rw [bodyOf_rxHdr_of_wait hm hr]
    exact .rests hc ⟨receives_nil _, by simp [hp], by simp [hp], fun _ => hless⟩
  have hone := receives_singleton hreceive
  cases hd : dataCapacity opc with
  | none =>
    have hn : receivesLeft opc .rxHdr = 1 := by rw [receivesLeft, if_pos hd]
    rw [bodyOf_rxHdr_simple hm hd, hn, readSimpleAck]
    obtain hr | ⟨b0, b1, hr⟩ := hr <;> rw [hr]
    · exact moved_of_simpleCheck hc hone le_rfl nofun
    · exact moved_of_simpleCheck (hc.storeRx 0 [b0, b1]) hone le_rfl (classifySimple_ne_badChecksum _)
  | some cap =>
    have hn : receivesLeft opc .rxHdr = 1 + 1 := by rw [receivesLeft, if_neg (by simp [hd])]
    rw [hn]
    obtain hr | ⟨b0, b1, hr⟩ := hr
    · rw [bodyOf_rxHdr_data hd, readComplexAck, hr]
      exact moved_of_complexCheck hd .error hc hone one_le_two
    have hstored := hc.storeRx 0 [b0, b1]
    cases hh : complexHeader (t.storeRx 0 [b0, b1]).params.rxBufCap cap b0 b1 with
    | some a =>
      have hack : readComplexAck cap s = .go a (t.storeRx 0 [b0, b1]) := by simp only [readComplexAck, hr, hh]
      rw [bodyOf_rxHdr_data hd, hack]
      exact moved_of_complexCheck hd a hstored hone one_le_two
    | none =>
      have hack : readComplexAck cap s = readComplexBody (t.storeRx 0 [b0, b1]) := by simp only [readComplexAck, hr, hh]
      rw [bodyOf_rxHdr_of_body hd hack]
      exact (bodyOf_rxBody_moved hd _).after hstored (fun _ _ h => h.cons hstored hreceive) fun _ h => h

theorem bodyOf_tx_moved (hm : opc ∈ commandOpcodes) (s : State) :
    Moved opc (SendCalls opc s) (CommandStatus opc) s (bodyOf opc .tx s) := by
  obtain ⟨t, ⟨hr, hc, hp, hnext⟩ | ⟨k, hc, hr | hr⟩⟩ := sendBuilt_carries s
  · rw [bodyOf_tx_of_wait hm hr]
    exact .rests hc (.inl ⟨rfl, hp, hnext⟩)
  · rw [bodyOf_tx_of_ended hm hr]
    exact .ends hc .nothing (.inr ⟨k, [], rfl, .ended (receives_nil _) (Nat.zero_le _) _ _⟩) ⟨nofun, fun _ => nofun⟩
  · rw [bodyOf_tx_of_go hm hr]
    refine (bodyOf_rxHdr_moved hm t).after hc (fun l v h => .inr ⟨k, l, rfl, ?_⟩) fun st h => ⟨h.1, h.2.2⟩
    exact ⟨hc.ep ▸ h.receives, h.phase, h.budget, fun hb => (h.unanswered hb).trans_le hc.rxDraws.length_le⟩

end

end Sys2Proof.Machine
end

section
/-!
PROOFS. What operations and moves of the ENGINE leave unchanged, how commands end, and that they make one attempt (10_state.md sections
2 and 3, 43_commands.md sections 1, 3 and 4, 60_exceptions.md).
-/
namespace Sys2Proof.Machine

open Sys2Proof

/-! ### What every move leaves unchanged -/

/-- What a move of a command, ended or not, leaves unchanged around it; the LINK is a later one, with other endpoints' streams as they
were. -/
structure SameOutside (s t : State) : Prop where
  bound : t.block.bound = s.block.bound
  ep : t.block.ep = s.block.ep
  fault : t.block.fault = s.block.fault
  curOp : t.block.curOp = s.block.curOp
  curArg : t.block.curArg = s.block.curArg
  port : t.port = s.port
  params : t.params = s.params
  later : LaterLink s.link t.link
  others : s.link.unread.wf → ∀ e, s.block.ep ≠ some e → t.link.unread.get e = s.link.unread.get e

/-- How a move of the command in CUR_OP may change CODE and the result registers (rules R22, R118, R120 and R129). -/
structure ResultsByCommand (s t : State) : Prop where
  concentrations : s.block.curOp ≠ some 0x04 → t.block.resFine = s.block.resFine ∧ t.block.resCoarse = s.block.resCoarse
  coeff : s.block.curOp ≠ some 0x10 → t.block.resCoeff = s.block.resCoeff
  of_not_ok : t.block.code ≠ some 0 → SameResults s t
  of_busy : t.block.busy = true → t.block.code = s.block.code ∧ SameResults s t

theorem ResultsByCommand.of_same {s t : State} (h : SameResults s t) (hc : t.block.busy = true → t.block.code = s.block.code) :
    ResultsByCommand s t := by
  obtain ⟨hfine, hcoarse, hcoeff⟩ := h
  exact ⟨fun _ => ⟨hfine, hcoarse⟩, fun _ => hcoeff, fun _ => ⟨hfine, hcoarse, hcoeff⟩,
    fun hb => ⟨hc hb, hfine, hcoarse, hcoeff⟩⟩

section
variable {opc arg : Byte} {W : List LinkCall → State → Prop} {S : Status → Prop} {l : List LinkCall} {s t u v : State} {st : Status}

theorem Carries.sameResults (h : Carries l s t) : SameResults s t := ⟨h.resFine, h.resCoarse, h.resCoeff⟩

theorem Carries.sameOutside (h : Carries l s u) : SameOutside s u :=
  ⟨h.bound, h.ep, h.fault, h.curOp, h.curArg, h.port, h.params, h.later, h.others⟩

theorem Delivered.sameOutside (hd : Delivered opc st u v) (h : SameOutside s u) : SameOutside s (finish st v) := by
  cases hd with
  | nothing | results | coeff => exact { h with }

theorem Moved.sameOutside (h : Moved opc W S s t) : SameOutside s t := by
  cases h with
  | rests hc _ => exact hc.sameOutside
  | ends hc hd _ _ => exact hd.sameOutside hc.sameOutside

/-- Only the delivery of a data command changes results, and it ends with OK. -/
theorem Moved.results (h : Moved opc W S s t) (ho : s.block.curOp = some opc) : ResultsByCommand s t := by
  cases h with
  | rests hc _ => exact .of_same hc.sameResults fun _ => hc.code
  | ends hc hd _ _ =>
    obtain ⟨hfine, hcoarse, hcoeff⟩ := hc.sameResults
    cases hd with
    | nothing => exact .of_same hc.sameResults (by simp)
    | results fine coarse h4 hok =>
      subst h4 hok
      exact ⟨fun hne => absurd ho hne, fun _ => hcoeff, fun hne => absurd rfl hne, nofun⟩
    | coeff v h10 hok =>
      subst h10 hok
      exact ⟨fun _ => ⟨hfine, hcoarse⟩, fun hne => absurd ho hne, fun hne => absurd rfl hne, nofun⟩

theorem Moved.calls (h : Moved opc W S s t) : ∃ l, t.link.log = s.link.log ++ l ∧ W l t := by
  cases h with
  | rests hc hw => exact ⟨_, hc.log, hw⟩
  | ends hc hd hw _ =>
    refine ⟨_, ?_, hw⟩
    cases hd with
    | nothing | results | coeff => exact hc.log

theorem Moved.status (h : Moved opc W S s t) (hs : s.block.busy = true) (ht : t.block.busy = false) :
    ∃ st, S st ∧ t.block.code = some (statusCode st) := by
  cases h with
  | rests hc _ => simp [hc.busy, hs] at ht
  | ends _ _ _ hst => exact ⟨_, hst, rfl⟩

/-! ### Moves from every state -/

/-- In whatever PHASE and state the model's body runs, it is a move of its command. -/
theorem bodyOf_moved (opc : Byte) (p : Phase) (s : State) : Moved opc (fun _ _ => True) (fun _ => True) s (bodyOf opc p s) := by
  by_cases hm : opc ∈ commandOpcodes
  · have hstay : bodyOf opc p s = s → Moved opc (fun _ _ => True) (fun _ => True) s (bodyOf opc p s) :=
      fun h => h.symm ▸ .rests (.refl s) trivial
    cases p with
    | build =>
      obtain ⟨f, n, h⟩ := bodyOf_build_frame hm s
      rw [h]
      have hc : Carries [] s ((s.setPhase .build).setFrame f n) :=
        .of_sameLink ((Keeps.setPhase .build s).trans (.setFrame f n _)) rfl rfl rfl
      exact (bodyOf_tx_moved hm _).weaken.after hc (fun _ _ h => h) fun _ h => h
    | tx => exact (bodyOf_tx_moved hm s).weaken
    | rxHdr => exact (bodyOf_rxHdr_moved hm s).weaken
    | rxBody =>
      cases hd : dataCapacity opc with
      | none => exact hstay (bodyOf_of_no_call .rxBody (.inr (.inr ⟨rfl, hd⟩)) s)
      | some cap => exact (bodyOf_rxBody_moved hd s).weaken
    | idle => exact hstay (bodyOf_of_no_call .idle (.inl rfl) s)
    | check => exact hstay (bodyOf_of_no_call .check (.inr (.inl rfl)) s)
  · rw [bodyOf_of_not_command hm]
    exact .rests (.refl s) trivial

/-- The ENGINE going on, from every state: it stays, or moves the command in CUR_OP. -/
theorem resume_cases (s : State) : resume s = s ∨
    ∃ opc, s.block.busy = true ∧ s.block.curOp = some opc ∧ resume s = bodyOf opc s.block.phase s := by
  unfold resume
  split_ifs with hb
  · cases ho : s.block.curOp with
    | none => exact .inl rfl
    | some opc => exact .inr ⟨opc, hb, rfl, rfl⟩
  · exact .inl rfl

theorem resume_sameOutside (s : State) : SameOutside s (resume s) := by
  obtain h | ⟨opc, -, -, h⟩ := resume_cases s <;> rw [h]
  · exact (Carries.refl s).sameOutside
  · exact (bodyOf_moved opc _ s).sameOutside

theorem resume_results (s : State) : ResultsByCommand s (resume s) := by
  obtain h | ⟨opc, -, ho, h⟩ := resume_cases s <;> rw [h]
  · exact .of_same ⟨rfl, rfl, rfl⟩ fun _ => rfl
  · exact (bodyOf_moved opc _ s).results ho

/-- What all updates but BUILD_FRAME's keep is kept from every PHASE but BUILD. -/
theorem bodyOf_kept {P : State → Prop} (h : ∀ w, KeptByDataExchange w P) (opc : Byte) {p : Phase} (hp : p ≠ .build) (hs : P s) :
    P (bodyOf opc p s) := by
  by_cases hm : opc ∈ commandOpcodes
  · cases hd : dataCapacity opc with
    | none => exact (h 2).toKeptByExchange.bodyOf hm hd hp hs
    | some cap =>
      rw [bodyOf_data hd]
      refine Flow.andThen_state ?_ fun q _ _ ht => (h 0).deliver opc q ht
      exact (h (cap + 4 + (s.declaredLength + 3))).runComplex (by omega) opc cap hp (fun _ => by omega) hs
  · rwa [bodyOf_of_not_command hm]

/-- TXBUF and TXLEN are those of `s`. -/
def SameFrame (s t : State) : Prop := t.block.txBuf = s.block.txBuf ∧ t.block.txLen = s.block.txLen

theorem sameFrame_kept (s : State) (w : Nat) : KeptByDataExchange w (SameFrame s) where
  setPhase _ h := h
  setLink _ h := h
  storeRx _ h := h
  finish _ h := h
  setAck _ _ _ h := h
  setResults _ _ h := h
  setCoeff _ h := h

theorem resume_sameFrame (hp : s.block.phase ≠ .build) : SameFrame s (resume s) := by
  obtain h | ⟨opc, -, -, h⟩ := resume_cases s <;> rw [h]
  · exact ⟨rfl, rfl⟩
  · exact bodyOf_kept (sameFrame_kept s) opc hp ⟨rfl, rfl⟩

theorem engineMove_inbox (h : EngineMove s t) : t = resume (s.setInbox s.port.inbox.tail) := by
  obtain ⟨hi, h⟩ := h
  obtain ⟨left, es, he, -⟩ | ⟨es, -, he, ht⟩ | ⟨a, i, es, he, -⟩ | ⟨a, es, r, he, -⟩ := step_next h
  case inr.inl =>
    obtain he | ⟨he, rfl⟩ := he <;> rw [he] <;> exact ht
  all_goals simp [he] at hi

/-! ### Moves under the invariant -/

/-- Under the invariant a busy ENGINE moves its command from TX, or from behind the send. -/
theorem resume_moved (h : Inv s) (hb : s.block.busy = true) (ho : s.block.curOp = some opc) :
    (s.block.phase = .tx ∧ Moved opc (SendCalls opc s) (CommandStatus opc) s (resume s)) ∨
      (s.block.phase ≠ .tx ∧ Moved opc (ReplyCalls opc (receivesLeft opc s.block.phase) s) (ReplyStatus opc) s (resume s)) := by
  obtain ⟨hr, hm⟩ := resume_of_busy h hb ho
  obtain ⟨opc', arg, hrun, hat⟩ := running_of_busy h hb
  obtain rfl : opc' = opc := Option.some.inj (hrun.curOp.symm.trans ho)
  rw [hr]
  obtain hp | hp | hp := hat.resting
  · rw [hp]
    exact .inl ⟨rfl, bodyOf_tx_moved hm s⟩
  · rw [hp]
    exact .inr ⟨nofun, bodyOf_rxHdr_moved hm s⟩
  · obtain ⟨cap, l, hd, -⟩ := hat.body hp
    rw [hp]
    exact .inr ⟨nofun, bodyOf_rxBody_moved hd s⟩

theorem oneSend_of_moved (h : Moved opc (SendCalls opc s) S s t) (hf : s.txFrame = frameOf opc arg) : OneSend opc arg s t := by
  obtain ⟨l, hlog, ⟨hnil, hp, -⟩ | ⟨k, rest, hl, hc⟩⟩ := h.calls
  · exact ⟨l, hlog, .inl ⟨hnil, hp⟩⟩
  · exact ⟨l, hlog, .inr ⟨k, rest, hf ▸ hl, hc.receives, hc.phase, hc.budget⟩⟩

theorem noSend_of_moved (h : Moved opc (ReplyCalls opc (receivesLeft opc s.block.phase) s) S s t) : NoSend opc s t := by
  obtain ⟨l, hlog, hc⟩ := h.calls
  exact ⟨l, hlog, hc.receives, hc.phase, hc.budget⟩

/-! ### Statuses (rules R124 and R126) -/

theorem statusCode_mem (h : st ≠ .badArgument) : statusCode st ∈ ([0, 2, 3, 4, 5] : List (BitVec 3)) := by
  cases st with
  | badArgument => exact absurd rfl h
  | ok | negativeAck | badResponse | badChecksum | txIncomplete => decide

theorem statusCode_ne_four (h : st ≠ .badChecksum) : statusCode st ≠ 4 := by
  cases st with
  | badChecksum => exact absurd rfl h
  | ok | badArgument | negativeAck | badResponse | txIncomplete => decide

theorem statusCode_ne_five (h : st ≠ .txIncomplete) : statusCode st ≠ 5 := by
  cases st with
  | txIncomplete => exact absurd rfl h
  | ok | badArgument | negativeAck | badResponse | badChecksum => decide

/-! ### Operations -/

/-- A CMD write that answers a next state found no fault, and raised one or moved its command. -/
theorem exec_moved {i : Instr} (hi : commandOf i = some (opc, arg)) (h : exec i s = .next t) :
    s.block.fault = none ∧
      ((∃ r, t = raise r s) ∨ Moved opc (SendCalls opc (s.started opc arg)) (CommandStatus opc) (s.started opc arg) t) := by
  refine ⟨(exec_next h).1, (exec_command_next hi h).imp_right fun ht => ?_⟩
  rw [ht]
  exact bodyOf_tx_moved (mem_commandOpcodes_of_commandOf hi) _

theorem readResults_of_opcode {i : Instr} (h : commandOf i = some (0x04, arg)) : i = .readResults arg := by
  cases i <;> simp_all [commandOf]

theorem readCoeff_of_opcode {i : Instr} (h : commandOf i = some (0x10, arg)) : i = .readCoeff arg := by
  cases i <;> simp_all [commandOf]

/-- An operation that is no command raised a fault, bound an endpoint or returned a register's value. -/
theorem exec_no_command {i : Instr} (hi : commandOf i = none) (h : exec i s = .next t) :
    s.block.fault = none ∧ ((∃ r, t = raise r s) ∨ (∃ ep, i = .bind ep ∧ s.block.busy = false ∧ t = s.setBinding ep) ∨
      ∃ r v, i = .rd r ∧ t = s.setRdata r v) := by
  cases i with
  | startMeas | stopMeas | readResults | setCoeff | readCoeff | stopAutoSend | enableAutoSend => cases hi
  | bind ep =>
    obtain ⟨hf, ⟨-, ht⟩ | ⟨hb, ht⟩⟩ := execBind_next h
    · exact ⟨hf, .inl ⟨_, ht⟩⟩
    · exact ⟨hf, .inr (.inl ⟨ep, rfl, hb, ht⟩)⟩
  | rd r =>
    obtain ⟨hf, ht | ht | ⟨v, -, ht⟩⟩ := execRd_next h
    · exact ⟨hf, .inl ⟨_, ht⟩⟩
    · exact ⟨hf, .inl ⟨_, ht⟩⟩
    · exact ⟨hf, .inr (.inr ⟨r, v, rfl, ht⟩)⟩

end

end Sys2Proof.Machine

namespace Sys2Proof.Proofs

open Sys2Proof Sys2Proof.Machine

/-- Settles O32: an operation raises a fault, moves its command, binds an endpoint or returns a value, and each leaves its frame. -/
theorem operationsFrame : Obligations.OperationsFrame := by
  intro i s t h
  cases hi : commandOf i with
  | some c =>
    obtain ⟨opc, arg⟩ := c
    obtain ⟨hf, ⟨r, rfl⟩ | hmoved⟩ := exec_moved hi h
    · exact ⟨rfl, rfl, fun _ => ⟨rfl, rfl⟩, fun _ => rfl, fun _ => ⟨rfl, rfl⟩, fun _ => rfl,
        fun r' hr => Option.some.inj hr ▸ rfl, fun _ => rfl, nofun⟩
    · have hout := hmoved.sameOutside
      have hres := hmoved.results rfl
      refine ⟨hout.params, congrArg Port.inbox hout.port, fun hne => hres.concentrations ?_, fun hne => hres.coeff ?_,
        fun _ => ⟨hout.ep, hout.bound⟩, fun _ => hout.port, fun r hr => ?_, fun hb => (hres.of_busy hb).1, nofun⟩
      · rintro ho
        obtain rfl : opc = 0x04 := Option.some.inj ho
        exact hne arg (readResults_of_opcode hi)
      · rintro ho
        obtain rfl : opc = 0x10 := Option.some.inj ho
        exact hne arg (readCoeff_of_opcode hi)
      · have hnone : t.block.fault = none := hout.fault.trans hf
        simp [hnone] at hr
  | none =>
    obtain ⟨hf, ⟨r, rfl⟩ | ⟨ep, rfl, -, rfl⟩ | ⟨q, v, rfl, rfl⟩⟩ := exec_no_command hi h
    · exact ⟨rfl, rfl, fun _ => ⟨rfl, rfl⟩, fun _ => rfl, fun _ => ⟨rfl, rfl⟩, fun _ => rfl,
        fun r' hr => Option.some.inj hr ▸ rfl, fun _ => rfl, fun _ => ⟨rfl, rfl⟩⟩
    · exact ⟨rfl, rfl, fun _ => ⟨rfl, rfl⟩, fun _ => rfl, fun hne => absurd rfl (hne ep), fun _ => rfl,
        fun r' hr => by simp [hf] at hr, fun _ => rfl, fun _ => ⟨rfl, rfl⟩⟩
    · exact ⟨rfl, rfl, fun _ => ⟨rfl, rfl⟩, fun _ => rfl, fun _ => ⟨rfl, rfl⟩, fun hne => absurd rfl (hne q),
        fun r' hr => by simp [hf] at hr, fun _ => rfl, fun _ => ⟨rfl, rfl⟩⟩

/-- Settles O33: results change only where a data command delivers them, in the move that ends it with OK. -/
theorem resultsChangeOnlyOnOk : Obligations.ResultsChangeOnlyOnOk := by
  intro s t h
  obtain ⟨i, opc, arg, hi, hx⟩ | hmove := h
  · obtain ⟨-, ⟨r, rfl⟩ | hmoved⟩ := exec_moved hi hx
    · exact ⟨fun _ => ⟨rfl, rfl, rfl⟩, fun _ => ⟨rfl, rfl, rfl, rfl⟩⟩
    · have hres := hmoved.results rfl
      exact ⟨hres.of_not_ok, hres.of_busy⟩
  · rw [engineMove_inbox hmove]
    have hres := resume_results (s.setInbox s.port.inbox.tail)
    exact ⟨hres.of_not_ok, hres.of_busy⟩

/-- Settles O50: a move takes its event and then goes on with the command in CUR_OP. -/
theorem engineMovesFrame : Obligations.EngineMovesFrame := by
  intro s t h
  rw [engineMove_inbox h]
  have hout := resume_sameOutside (s.setInbox s.port.inbox.tail)
  have hres := resume_results (s.setInbox s.port.inbox.tail)
  exact ⟨hout.bound, hout.ep, hout.fault, hout.curOp, hout.curArg, by rw [hout.port]; rfl, by rw [hout.port]; rfl,
    hout.params, fun hp => resume_sameFrame (s := s.setInbox s.port.inbox.tail) hp, hres.concentrations, hres.coeff⟩

/-- Settles O35: only the bound endpoint's stream is replaced, by a receive or where its unread bytes are discarded. -/
theorem otherEndpointsAreUntouched : Obligations.OtherEndpointsAreUntouched := by
  intro s t hinv h e he
  obtain ⟨i, hx⟩ | hmove := h
  · cases hi : commandOf i with
    | some c =>
      obtain ⟨opc, arg⟩ := c
      obtain ⟨-, ⟨r, rfl⟩ | hmoved⟩ := exec_moved hi hx
      · rfl
      · exact hmoved.sameOutside.others hinv.store.streams e he
    | none =>
      obtain ⟨-, ⟨r, rfl⟩ | ⟨ep, -, -, rfl⟩ | ⟨q, v, -, rfl⟩⟩ := exec_no_command hi hx
      · rfl
      · rfl
      · rfl
  · rw [engineMove_inbox hmove]
    exact (resume_sameOutside (s.setInbox s.port.inbox.tail)).others hinv.store.streams e he

/-- Settles O36: from TX a command makes its one TxSend, and behind it the receives that its PHASE leaves to make. -/
theorem commandsMakeOneAttempt : Obligations.CommandsMakeOneAttempt := by
  constructor
  · intro i opc arg s t hi hinv hr hx
    have hm := mem_commandOpcodes_of_commandOf hi
    rw [exec_of_ready hi hr] at hx
    cases hx
    exact oneSend_of_moved (s := s.started opc arg) (bodyOf_tx_moved hm _) (started_frame hm hinv.store.tx_wf).1
  · intro opc arg s t hinv hb ho ha hmove
    obtain ⟨es, rfl⟩ := engineMove_resume hmove
    have hinv' := inv_setInbox hinv es
    have hm := (resume_of_busy hinv' hb ho).2
    obtain ⟨hp, hmoved⟩ | ⟨hp, hmoved⟩ := resume_moved hinv' hb ho
    · refine ⟨fun _ => oneSend_of_moved (s := s.setInbox es) hmoved ?_, fun hne => absurd hp hne⟩
      rw [← commandFramesAreTheTable opc hm arg]
      exact (hinv'.op.sending hp opc arg ho ha).2
    · exact ⟨fun htx => absurd htx hp, fun _ => noSend_of_moved (s := s.setInbox es) hmoved⟩

/-- Settles O37: each end of a command has a status of rule R124, and only the send ends with TX_INCOMPLETE. -/
theorem commandsEndWithTheirStatuses : Obligations.CommandsEndWithTheirStatuses := by
  constructor
  · intro i opc arg s t hi hr hx hend
    rw [exec_of_ready hi hr] at hx
    cases hx
    obtain ⟨st, ⟨harg, hsum⟩, hc⟩ := (bodyOf_tx_moved (mem_commandOpcodes_of_commandOf hi) (s.started opc arg)).status rfl hend
    refine ⟨_, hc, statusCode_mem harg, fun hs => ?_⟩
    obtain ⟨c, hsimple⟩ := Option.ne_none_iff_exists'.1 hs
    exact statusCode_ne_four (hsum (dataCapacity_of_simpleOf hi hsimple))
  · intro opc s t hinv hb ho hmove hend
    obtain ⟨es, rfl⟩ := engineMove_resume hmove
    obtain ⟨hp, hmoved⟩ | ⟨-, hmoved⟩ := resume_moved (inv_setInbox hinv es) hb ho
    · obtain ⟨st, ⟨harg, hsum⟩, hc⟩ := hmoved.status hb hend
      exact ⟨_, hc, statusCode_mem harg, fun hd => statusCode_ne_four (hsum hd), fun hne => absurd hp hne⟩
    · obtain ⟨st, ⟨harg, htx, hsum⟩, hc⟩ := hmoved.status hb hend
      exact ⟨_, hc, statusCode_mem harg, fun hd => statusCode_ne_four (hsum hd), fun _ => statusCode_ne_five htx⟩

/-- Settles O43: neither a move of the ENGINE nor a read of STAT records a fault or brings an event. -/
theorem pollingStatIsSafe : Obligations.PollingStatIsSafe := by
  intro n
  induction n with
  | zero => exact fun _ hf _ => hf
  | succ n ih =>
    intro s hf hi
    have hmove : ∀ es, (∀ e ∈ es, e = .wait ∨ e = .access (.read 1)) → SafeRun n (resume (s.setInbox es)) := fun es hes => by
      have hout := resume_sameOutside (s.setInbox es)
      refine ih _ (hout.fault.trans hf) ?_
      rw [hout.port]
      exact hes
    refine ⟨hf, ?_⟩
    match hin : s.port.inbox with
    | [] =>
      have hsame : s.setInbox [] = s := by rw [State.setInbox, ← hin]
      exact ⟨_, step_of_no_event hin hf, hsame ▸ hmove [] nofun⟩
    | e :: es =>
      rw [hin] at hi
      have hes : ∀ e ∈ es, e = .wait ∨ e = .access (.read 1) := fun e he => hi e (List.mem_cons_of_mem _ he)
      obtain rfl | rfl := hi e List.mem_cons_self
      · exact ⟨_, step_of_wait hin hf, hmove es hes⟩
      · have hread : hostAccess (.read 1) (s.setInbox es) = execRd .stat (s.setInbox es) := hostAccess_of_ok (i := .rd .stat) rfl rfl
        have hstep := (step_of_access hin).trans (hread.trans (execRd_of_held (s := s.setInbox es) hf (.inr rfl) rfl))
        exact ⟨_, hstep, ih _ hf hes⟩

end Sys2Proof.Proofs
end

section
/-!
PROOFS. What does not survive an operation does not matter to the next (10_state.md rule R34): two states that agree on the surviving
elements go through an operation alike, since what it reads of its buffers it has written first.
-/
namespace Sys2Proof.Machine

open Sys2Proof

/-- Two flows take the same way, through states that agree on the surviving elements; where they return, they return the same, in
states that `R` relates. -/
inductive Flow.Agree {α : Type} (R : α → State → State → Prop) : Flow α → Flow α → Prop
  | wait {t t' : State} : SameSurvivors t t' → Flow.Agree R (.wait t) (.wait t')
  | ended {t t' : State} : SameSurvivors t t' → Flow.Agree R (.ended t) (.ended t')
  | go {a : α} {t t' : State} : R a t t' → Flow.Agree R (.go a t) (.go a t')

theorem Flow.Agree.andThen {α β : Type} {R : α → State → State → Prop} {Q : β → State → State → Prop} {f f' : Flow α}
    {k : α → State → Flow β} (h : f.Agree R f') (hk : ∀ a t t', R a t t' → (k a t).Agree Q (k a t')) :
    (f.andThen k).Agree Q (f'.andThen k) := by
  cases h with
  | wait h => exact .wait h
  | ended h => exact .ended h
  | go h => exact hk _ _ _ h

theorem Flow.Agree.state {α : Type} {f f' : Flow α} (h : f.Agree (fun _ => SameSurvivors) f') :
    SameSurvivors f.state f'.state := by
  cases h with
  | wait h => exact h
  | ended h => exact h
  | go h => exact h

/-- A send that lets the command go on has touched the LINK and PHASE alone. -/
theorem sendBuilt_go {s t : State} (h : sendBuilt s = .go () t) : LinkOnly (s.setPhase .tx) t := by
  obtain ⟨u, hlink, hr | hr | hr⟩ := sendBuilt_cases s <;> rw [hr] at h <;> cases h
  exact hlink

theorem startCommand_of_ready (opc arg : Byte) (body : Phase → State → State) {s : State} (h : Ready s) :
    startCommand opc arg body s = .next (body .build (s.latch opc arg)) := by
  obtain ⟨hf, hb, hn⟩ := h
  rw [startCommand, unlessFaulted_clear hf, if_neg (by simp [hb]), if_pos hn]

end Sys2Proof.Machine

namespace Sys2Proof

open Sys2Proof.Machine

section
variable {s s' : State}

/-! ### The updates -/

theorem SameSurvivors.setPhase (h : SameSurvivors s s') (p : Phase) : SameSurvivors (s.setPhase p) (s'.setPhase p) := by
  obtain ⟨hn, he, hc, hr, hf, hb, -, hl, hp, hq⟩ := h
  exact ⟨hn, he, hc, hr, hf, hb, rfl, hl, hp, hq⟩

theorem SameSurvivors.setLink (h : SameSurvivors s s') (l : Link) : SameSurvivors (s.setLink l) (s'.setLink l) := by
  obtain ⟨hn, he, hc, hr, hf, hb, hph, -, hp, hq⟩ := h
  exact ⟨hn, he, hc, hr, hf, hb, hph, rfl, hp, hq⟩

/-- RXBUF does not survive. -/
theorem SameSurvivors.storeRx (h : SameSurvivors s s') (i : Nat) (bs : List Byte) :
    SameSurvivors (s.storeRx i bs) (s'.storeRx i bs) := h

/-- ACK_L, ACK_OP and ACK_P do not survive. -/
theorem SameSurvivors.setAck (h : SameSurvivors s s') (l op : Option Byte) (p : List Byte) :
    SameSurvivors (s.setAck l op p) (s'.setAck l op p) := h

theorem SameSurvivors.setResults (h : SameSurvivors s s') (fine coarse : Half) :
    SameSurvivors (s.setResults fine coarse) (s'.setResults fine coarse) := by
  obtain ⟨hn, he, hc, ⟨-, -, hcoeff⟩, hrest⟩ := h
  exact ⟨hn, he, hc, ⟨rfl, rfl, hcoeff⟩, hrest⟩

theorem SameSurvivors.setCoeff (h : SameSurvivors s s') (v : Byte) : SameSurvivors (s.setCoeff v) (s'.setCoeff v) := by
  obtain ⟨hn, he, hc, ⟨hfine, hcoarse, -⟩, hrest⟩ := h
  exact ⟨hn, he, hc, ⟨hfine, hcoarse, rfl⟩, hrest⟩

theorem SameSurvivors.finish (h : SameSurvivors s s') (st : Status) : SameSurvivors (finish st s) (finish st s') := by
  obtain ⟨hn, he, -, hr, hf, -, -, hl, hp, hq⟩ := h
  exact ⟨hn, he, rfl, hr, hf, rfl, rfl, hl, hp, hq⟩

theorem SameSurvivors.setBinding (h : SameSurvivors s s') (ep : Nat) : SameSurvivors (s.setBinding ep) (s'.setBinding ep) := by
  obtain ⟨-, -, hrest⟩ := h
  exact ⟨rfl, rfl, hrest⟩

theorem SameSurvivors.setRdata (h : SameSurvivors s s') (r : ReadReg) (v : Half) :
    SameSurvivors (s.setRdata r v) (s'.setRdata r v) := by
  obtain ⟨hn, he, hc, hr, hf, hb, hph, hl, hp, hq⟩ := h
  exact ⟨hn, he, hc, hr, hf, hb, hph, hl, by rw [setRdata_port, setRdata_port, hp], hq⟩

/-- The request and the frame do not survive. -/
theorem SameSurvivors.started (h : SameSurvivors s s') (opc arg : Byte) : SameSurvivors (s.started opc arg) (s'.started opc arg) := by
  obtain ⟨hn, he, hc, hr, hf, -, -, hrest⟩ := h
  exact ⟨hn, he, hc, hr, hf, rfl, rfl, hrest⟩

theorem SameSurvivors.raise (h : SameSurvivors s s') (r : Fault) : SameSurvivors (raise r s) (raise r s') := by
  obtain ⟨hn, he, hc, hr, -, hrest⟩ := h
  exact ⟨hn, he, hc, hr, rfl, hrest⟩

/-! ### The link primitives -/

theorem SameSurvivors.link (h : SameSurvivors s s') : s'.link = s.link := by
  obtain ⟨-, -, -, -, -, -, -, hl, -, -⟩ := h
  exact hl

theorem SameSurvivors.ep (h : SameSurvivors s s') : s'.block.ep = s.block.ep := by
  obtain ⟨-, he, -⟩ := h
  exact he

theorem SameSurvivors.params (h : SameSurvivors s s') : s'.params = s.params := by
  obtain ⟨-, -, -, -, -, -, -, -, -, hq⟩ := h
  exact hq

theorem SameSurvivors.unreadSet (h : SameSurvivors s s') (bs : List Byte) : s'.unreadSet bs = s.unreadSet bs := by
  rw [State.unreadSet, State.unreadSet, h.ep, h.link]

theorem SameSurvivors.unread (h : SameSurvivors s s') : s'.unread = s.unread := by
  rw [State.unread, State.unread, h.ep, h.link]

theorem SameSurvivors.txSend (h : SameSurvivors s s') (f : List Byte) :
    (txSend f s').1 = (txSend f s).1 ∧ SameSurvivors (txSend f s).2 (txSend f s').2 := by
  unfold Machine.txSend
  rw [h.link, h.ep]
  obtain ⟨_ | k, l⟩ := s.link.nextTx
  · exact ⟨rfl, h.setLink _⟩
  · exact ⟨rfl, h.setLink _⟩

theorem SameSurvivors.rxRecv (h : SameSurvivors s s') (n : Nat) :
    (rxRecv n s').1 = (rxRecv n s).1 ∧ SameSurvivors (rxRecv n s).2 (rxRecv n s').2 := by
  unfold Machine.rxRecv
  rw [h.link]
  obtain ⟨_ | a, l⟩ := s.link.nextRx
  · exact ⟨rfl, h.setLink _⟩
  · have h' := h.setLink l
    dsimp only
    rw [rxAnswer_eq, rxAnswer_eq, h'.unread, h'.unreadSet, h'.ep, h'.link]
    exact ⟨rfl, h'.setLink _⟩

theorem SameSurvivors.settleUnread (h : SameSurvivors s s') : SameSurvivors (settleUnread s) (settleUnread s') := by
  unfold Machine.settleUnread
  rw [h.params, h.unreadSet, h.link]
  split_ifs
  · exact h
  · exact h.setLink _

/-! ### The parts of a command -/

/-- The send reads TXBUF and TXLEN, which hold the same frame. -/
theorem SameSurvivors.sendBuilt (h : SameSurvivors s s') (hf : s'.txFrame = s.txFrame) (hl : s'.block.txLen = s.block.txLen) :
    (sendBuilt s).Agree (fun _ => SameSurvivors) (sendBuilt s') := by
  have hframe : (s'.setPhase .tx).txFrame = (s.setPhase .tx).txFrame := hf
  obtain ⟨hresult, hstate⟩ := (h.setPhase .tx).txSend (s.setPhase .tx).txFrame
  have hb := (txSend_keeps (s.setPhase .tx).txFrame (s.setPhase .tx)).1
  have hb' := (txSend_keeps (s.setPhase .tx).txFrame (s'.setPhase .tx)).1
  have htransmit : (transmit s).Agree (fun _ => SameSurvivors) (transmit s') := by
    unfold transmit
    dsimp only
    rw [hframe]
    generalize Machine.txSend (s.setPhase .tx).txFrame (s.setPhase .tx) = x at hresult hstate hb
    generalize Machine.txSend (s.setPhase .tx).txFrame (s'.setPhase .tx) = x' at hresult hstate hb'
    obtain ⟨k, t⟩ := x
    obtain ⟨k', t'⟩ := x'
    obtain rfl : k' = k := hresult
    have hlen : t'.block.txLen.getD 0 = t.block.txLen.getD 0 := by
      rw [show t'.block = _ from hb', show t.block = _ from hb, setPhase_txLen, setPhase_txLen, hl]
    cases k' with
    | none => exact .wait hstate
    | some k =>
      dsimp only
      rw [hlen]
      split_ifs
      · exact .go hstate
      · exact .go hstate
  refine htransmit.andThen fun r t t' ht => ?_
  cases r with
  | sent => exact .go ht
  | short => exact .ended (ht.finish _)

/-- The first receive gives the same, and leaves what else the block holds. -/
theorem SameSurvivors.rxHeader (h : SameSurvivors s s') :
    ∃ r t t', Machine.rxRecv 2 (Machine.settleUnread (s.setPhase .rxHdr)) = (r, t) ∧
      Machine.rxRecv 2 (Machine.settleUnread (s'.setPhase .rxHdr)) = (r, t') ∧ SameSurvivors t t' ∧
      LinkOnly (s.setPhase .rxHdr) t ∧ LinkOnly (s'.setPhase .rxHdr) t' := by
  obtain ⟨hresult, hstate⟩ := (h.setPhase .rxHdr).settleUnread.rxRecv 2
  have hlink := fun u : State => (LinkOnly.settleUnread (u.setPhase .rxHdr)).trans (.rxRecv 2 _)
  have hr' : Machine.rxRecv 2 (Machine.settleUnread (s'.setPhase .rxHdr)) =
    (_, (Machine.rxRecv 2 (Machine.settleUnread (s'.setPhase .rxHdr))).2) := Prod.ext hresult rfl
  exact ⟨_, _, _, rfl, hr', hstate, hlink s, hlink s'⟩

theorem SameSurvivors.readSimpleAck (h : SameSurvivors s s') :
    (readSimpleAck s).Agree (fun _ => SameSurvivors) (readSimpleAck s') := by
  obtain ⟨r, t, t', hr, hr', ht, -, -⟩ := h.rxHeader
  unfold Machine.readSimpleAck
  rw [hr, hr']
  cases r with
  | pending => exact .wait ht
  | timeout => exact .go ht
  | ok bs => exact .go (ht.storeRx 0 bs)

/-- What a reader of a complex ack returns in: the survivors agree, and behind Positive the output slots too. -/
def AckAgree (a : AckOutcome) (s s' : State) : Prop := SameSurvivors s s' ∧ (a = .positive → SameAck s s')

theorem replyVerdict_agree (h : SameSurvivors s s') (l op : Byte) (p : List Byte) (k : Byte) :
    (replyVerdict l op p k s).Agree AckAgree (replyVerdict l op p k s') := by
  unfold replyVerdict
  split_ifs
  · exact .go ⟨(h.storeRx 2 _).setAck _ _ _, fun _ => ⟨rfl, rfl, rfl⟩⟩
  · exact .go ⟨h.storeRx 2 _, nofun⟩

/-- Behind the same accepted header in both RXBUFs, the whole reply is read back from what was just written. -/
theorem SameSurvivors.readComplexBody (h : SameSurvivors s s') {cap : Nat} {l : Byte} (hw : s.block.rxBuf.wf)
    (hw' : s'.block.rxBuf.wf) (hheld : HeaderHeld cap l s) (hheld' : HeaderHeld cap l s') :
    (readComplexBody s).Agree AckAgree (readComplexBody s') := by
  obtain ⟨hresult, hstate⟩ := (h.setPhase .rxBody).rxRecv (l.toNat + 1)
  have hlink := LinkOnly.rxRecv (l.toNat + 1) (s.setPhase .rxBody)
  have hlink' := LinkOnly.rxRecv (l.toNat + 1) (s'.setPhase .rxBody)
  have hl := declaredLength_of_read hheld.length
  have hl' := declaredLength_of_read hheld'.length
  generalize hr : Machine.rxRecv (l.toNat + 1) (s.setPhase .rxBody) = x at hresult hstate hlink
  generalize hr' : Machine.rxRecv (l.toNat + 1) (s'.setPhase .rxBody) = x' at hresult hstate hlink'
  obtain ⟨r, t⟩ := x
  obtain ⟨r', t'⟩ := x'
  obtain rfl : r' = r := hresult
  cases r' with
  | pending =>
    simp only [Machine.readComplexBody, hl, hl', hr, hr']
    exact .wait hstate
  | timeout =>
    simp only [Machine.readComplexBody, hl, hl', hr, hr']
    exact .go ⟨hstate, nofun⟩
  | ok bs =>
    obtain ⟨op, p, k, rfl, hp⟩ := exists_echo_payload_trailing hheld.bounds.1 (rxRecv_ok_length hr)
    rw [readComplexBody_ok hw hheld.mark hheld.length hp hlink hr, readComplexBody_ok hw' hheld'.mark hheld'.length hp hlink' hr']
    exact replyVerdict_agree hstate l op p k

theorem SameSurvivors.readComplexAck (h : SameSurvivors s s') (cap : Nat) (hw : s.block.rxBuf.wf) (hw' : s'.block.rxBuf.wf) :
    (readComplexAck cap s).Agree AckAgree (readComplexAck cap s') := by
  obtain ⟨r, t, t', hr, hr', ht, hlink, hlink'⟩ := h.rxHeader
  cases r with
  | pending =>
    simp only [Machine.readComplexAck, hr, hr']
    exact .wait ht
  | timeout =>
    simp only [Machine.readComplexAck, hr, hr']
    exact .go ⟨ht, nofun⟩
  | ok bs =>
    obtain ⟨b0, b1, rfl⟩ := List.length_eq_two.1 (rxRecv_ok_length hr)
    have hstored := ht.storeRx 0 [b0, b1]
    have hparams := congrArg Params.rxBufCap hstored.params
    cases hh : complexHeader (t.storeRx 0 [b0, b1]).params.rxBufCap cap b0 b1 with
    | some a =>
      have ha : a ≠ .positive := by
        rintro rfl
        rw [complexHeader_eq] at hh
        split_ifs at hh <;> cases hh
      simp only [Machine.readComplexAck, hr, hr', hparams, hh]
      exact .go ⟨hstored, fun h => absurd h ha⟩
    | none =>
      simp only [Machine.readComplexAck, hr, hr', hparams, hh]
      have hwf : ∀ {u v : State}, v.block.rxBuf.wf → LinkOnly (v.setPhase .rxHdr) u → (u.storeRx 0 [b0, b1]).block.rxBuf.wf :=
        fun hv hu => Buffer.writeAll_wf (by rw [hu.block]; exact hv) 0 _
      exact hstored.readComplexBody (hwf hw hlink) (hwf hw' hlink') (.storeRx hh) (.storeRx (ht.params ▸ hh))

/-- The expectation check reads the output slots behind Positive only. -/
theorem complexCheck_agree {a : AckOutcome} (h : AckAgree a s s') (opc : Byte) (n : Nat) :
    (complexCheck opc n a s).Agree (fun _ => SameSurvivors) (complexCheck opc n a s') := by
  obtain ⟨h, hack⟩ := h
  have hc := h.setPhase .check
  cases a with
  | negative | badChecksum | error => exact .ended (hc.finish _)
  | positive =>
    obtain ⟨-, hop, hpay⟩ := hack rfl
    cases hp : s.block.ackP with
    | none =>
      simp only [complexCheck, setPhase_ackP, hpay, hp]
      exact .ended (hc.finish _)
    | some p =>
      rw [complexCheck_positive n hp, complexCheck_positive n (hpay.trans hp), hop]
      split_ifs
      · exact .go hc
      · exact .ended (hc.finish _)

theorem deliver_agree (h : SameSurvivors s s') (opc : Byte) (p : List Byte) :
    (deliver opc p s).Agree (fun _ => SameSurvivors) (deliver opc p s') := by
  unfold deliver
  split_ifs
  · unfold deliverResults
    split
    · exact .ended ((h.setResults _ _).finish _)
    · exact .ended (h.finish _)
  · unfold deliverCoeff
    split
    · exact .ended ((h.setCoeff _).finish _)
    · exact .ended (h.finish _)

/-! ### Operations -/

theorem bodyOf_rxHdr_agree {opc : Byte} (h : SameSurvivors s s') (hm : opc ∈ commandOpcodes) (hw : s.block.rxBuf.wf)
    (hw' : s'.block.rxBuf.wf) : SameSurvivors (bodyOf opc .rxHdr s) (bodyOf opc .rxHdr s') := by
  cases hd : dataCapacity opc with
  | none =>
    rw [bodyOf_rxHdr_simple hm hd, bodyOf_rxHdr_simple hm hd]
    exact (h.readSimpleAck.andThen fun a _ _ ht => .ended ((ht.setPhase .check).finish (ackStatus a))).state
  | some cap =>
    rw [bodyOf_rxHdr_data hd, bodyOf_rxHdr_data hd]
    exact (((h.readComplexAck cap hw hw').andThen fun _ _ _ ht => complexCheck_agree ht opc cap).andThen
      fun p _ _ ht => deliver_agree ht opc p).state

/-- From TX a command reads its frame, the LINK and what it writes itself. -/
theorem bodyOf_tx_agree {opc : Byte} (h : SameSurvivors s s') (hm : opc ∈ commandOpcodes) (hf : s'.txFrame = s.txFrame)
    (hl : s'.block.txLen = s.block.txLen) (hw : s.block.rxBuf.wf) (hw' : s'.block.rxBuf.wf) :
    SameSurvivors (bodyOf opc .tx s) (bodyOf opc .tx s') := by
  have hsend := h.sendBuilt hf hl
  generalize hx : sendBuilt s = f at hsend
  generalize hx' : sendBuilt s' = f' at hsend
  cases hsend with
  | wait ht =>
    rw [bodyOf_tx_of_wait hm hx, bodyOf_tx_of_wait hm hx']
    exact ht
  | ended ht =>
    rw [bodyOf_tx_of_ended hm hx, bodyOf_tx_of_ended hm hx']
    exact ht
  | go ht =>
    rw [bodyOf_tx_of_go hm hx, bodyOf_tx_of_go hm hx']
    refine bodyOf_rxHdr_agree ht hm ?_ ?_
    · rw [(sendBuilt_go hx).block]
      exact hw
    · rw [(sendBuilt_go hx').block]
      exact hw'

/-- A command that starts builds the same frame over whatever TXBUF held. -/
theorem startCommand_agree {opc arg : Byte} {t : State} (h : SameSurvivors s s') (hm : opc ∈ commandOpcodes) (hi : StoreInv s)
    (hi' : StoreInv s') (ht : startCommand opc arg (bodyOf opc) s = .next t) :
    ∃ t', startCommand opc arg (bodyOf opc) s' = .next t' ∧ SameSurvivors t t' := by
  obtain ⟨hn, -, -, -, hf, hb, -⟩ := id h
  obtain ⟨hclear, ⟨hbusy, rfl⟩ | ⟨hidle, hbound, rfl⟩ | ⟨hidle, hunbound, rfl⟩⟩ := startCommand_next ht
  · exact ⟨_, startCommand_of_busy opc arg _ (hf.trans hclear) (hb.trans hbusy), h.raise _⟩
  · refine ⟨_, startCommand_of_ready opc arg _ ⟨hf.trans hclear, hb.trans hidle, hn.trans hbound⟩, ?_⟩
    obtain ⟨hframe, hlen⟩ := started_frame (arg := arg) hm hi.tx_wf
    obtain ⟨hframe', hlen'⟩ := started_frame (arg := arg) hm hi'.tx_wf
    rw [bodyOf_build_latch hm, bodyOf_build_latch hm]
    exact bodyOf_tx_agree (h.started opc arg) hm (hframe'.trans hframe.symm) (hlen'.trans hlen.symm) hi.rx_wf hi'.rx_wf
  · exact ⟨_, startCommand_of_unbound opc arg _ (hf.trans hclear) (hb.trans hidle) (hn.trans hunbound), h.raise _⟩

theorem heldValue_agree (h : SameSurvivors s s') (r : ReadReg) : heldValue s'.block r = heldValue s.block r := by
  obtain ⟨hn, -, hc, ⟨hfine, hcoarse, hcoeff⟩, -, hb, -⟩ := h
  cases r with
  | stat => rw [heldValue, heldValue, hb, hn]
  | resFine => exact hfine
  | resCoarse => exact hcoarse
  | resCoeff => rw [heldValue, heldValue, hcoeff]
  | code => rw [heldValue, heldValue, hc]

/-- BIND reads BUSY and the fault mark. -/
theorem execBind_agree {ep : Nat} {t : State} (h : SameSurvivors s s') (ht : execBind ep s = .next t) :
    ∃ t', execBind ep s' = .next t' ∧ SameSurvivors t t' := by
  obtain ⟨-, -, -, -, hf, hb, -⟩ := id h
  obtain ⟨hclear, ⟨hbusy, rfl⟩ | ⟨hidle, rfl⟩⟩ := execBind_next ht
  · exact ⟨_, execBind_of_busy ep (hf.trans hclear) (hb.trans hbusy), h.raise _⟩
  · exact ⟨_, execBind_of_idle ep (hf.trans hclear) (hb.trans hidle), h.setBinding ep⟩

/-- RD of an idle block reads the register and the fault mark. -/
theorem execRd_agree {r : ReadReg} {t : State} (h : SameSurvivors s s') (hidle : s.block.busy = false)
    (ht : execRd r s = .next t) : ∃ t', execRd r s' = .next t' ∧ SameSurvivors t t' := by
  obtain ⟨-, -, -, -, hf, hb, -⟩ := id h
  have hclear := (execRd_next ht).1
  cases hv : heldValue s.block r with
  | none =>
    rw [execRd_of_unwritten hclear hidle hv] at ht
    cases ht
    exact ⟨_, execRd_of_unwritten (hf.trans hclear) (hb.trans hidle) ((heldValue_agree h r).trans hv), h.raise _⟩
  | some v =>
    rw [execRd_of_held hclear (.inl hidle) hv] at ht
    cases ht
    exact ⟨_, execRd_of_held (hf.trans hclear) (.inl (hb.trans hidle)) ((heldValue_agree h r).trans hv), h.setRdata r v⟩

end

end Sys2Proof

namespace Sys2Proof.Proofs

open Sys2Proof Sys2Proof.Machine

/-- Settles O47: an operation reads survivors, and of the transient elements only what it has written itself. -/
theorem transientStateCarriesNothing : Obligations.TransientStateCarriesNothing := by
  intro i s s' t hinv hinv' hidle h ht
  cases i with
  | startMeas | stopMeas | readResults | setCoeff | readCoeff | stopAutoSend | enableAutoSend =>
    rw [exec_of_commandOf rfl] at ht ⊢
    exact startCommand_agree h (by decide) hinv.store hinv'.store ht
  | bind ep => exact execBind_agree h ht
  | rd r => exact execRd_agree h hidle ht

end Sys2Proof.Proofs
end

section
/-!
PROOFS. Waiting (20_memory.md rules R51 and R53): a call that the LINK has not answered leaves the command where it stood, with one draw
used, so that it comes to the same whether it waited or not.
-/
namespace Sys2Proof.Machine

open Sys2Proof

/-- The state with other draws listed for TxSend. -/
def State.withTx (ds : List TxDraw) (s : State) : State := s.setLink { s.link with txDraws := ds }

/-- The state with other draws listed for RxRecv. -/
def State.withRx (ds : List RxDraw) (s : State) : State := s.setLink { s.link with rxDraws := ds }

section
variable {opc arg : Byte} {cap : Nat} {s : State} {i : Instr} {ts : List TxDraw}

theorem inv_withRx (h : Inv s) (ds : List RxDraw) : Inv (s.withRx ds) := inv_linkOnly h ⟨rfl, rfl, rfl, fun hw => hw⟩

theorem setPhase_self {p : Phase} (h : s.block.phase = p) : s.setPhase p = s := by
  subst h
  rfl

theorem resume_of_curOp (hb : s.block.busy = true) (ho : s.block.curOp = some opc) : resume s = bodyOf opc s.block.phase s := by
  simp only [resume, hb, if_true, ho]

/-! ### The first receive -/

/-- Discarding unread bytes and listing draws do not touch each other. -/
theorem settleUnread_withRx (ds : List RxDraw) (s : State) : settleUnread (s.withRx ds) = (settleUnread s).withRx ds := by
  unfold settleUnread
  rw [apply_ite (State.withRx ds)]
  rfl

theorem rxRecv_withRx_pending (n : Nat) (ds : List RxDraw) (s : State) :
    rxRecv n (s.withRx (.pending :: ds)) = (.pending, s.withRx ds) := rfl

/-- The answer a receive draws does not depend on the draws behind it. -/
theorem rxRecv_withRx_answer (n : Nat) (a : RxAnswer) (ds : List RxDraw) (s : State) :
    rxRecv n (s.withRx (.answer a :: ds)) = ((rxAnswer n a s).1, (rxAnswer n a s).2.withRx ds) := by
  rw [show rxRecv n (s.withRx (.answer a :: ds)) = rxAnswer n a (s.withRx ds) from rfl, rxAnswer_eq, rxAnswer_eq]
  rfl

theorem rxHeader_withRx_pending (ds : List RxDraw) (s : State) :
    rxRecv 2 (settleUnread ((s.withRx (.pending :: ds)).setPhase .rxHdr)) =
      (.pending, (settleUnread (s.setPhase .rxHdr)).withRx ds) := by
  rw [← rxRecv_withRx_pending 2, ← settleUnread_withRx]
  rfl

/-- What was discarded stays discarded. -/
theorem settleUnread_settled (hw : s.link.unread.wf) :
    settleUnread ((settleUnread (s.setPhase .rxHdr)).setPhase .rxHdr) = settleUnread (s.setPhase .rxHdr) := by
  cases hq : s.params.linkRetainsUnread with
  | true =>
    have hkeep : settleUnread (s.setPhase .rxHdr) = s.setPhase .rxHdr := if_pos hq
    rw [hkeep]
    exact hkeep
  | false =>
    have hdiscard : settleUnread (s.setPhase .rxHdr) =
        (s.setPhase .rxHdr).setLink { s.link with unread := (s.setPhase .rxHdr).unreadSet [] } := if_neg (by simp [hq])
    have hidem := settleUnread_of_discarded (s := s.setPhase .rxHdr) hw hq []
    rw [hdiscard] at hidem ⊢
    exact hidem

/-- There is nothing to discard where unread bytes are retained, or where there are none. -/
theorem settleUnread_of_nothing (hw : s.link.unread.wf) (h : s.params.linkRetainsUnread = true ∨ s.unread = []) :
    settleUnread s = s := by
  unfold settleUnread
  split_ifs with hq
  · rfl
  · have hnil : s.unread = [] := h.resolve_left hq
    have hset : s.unreadSet [] = s.link.unread := by
      rw [← hnil]
      unfold State.unreadSet State.unread
      cases s.block.ep with
      | none => rfl
      | some ep => exact Streams.set_get hw ep
    rw [hset]
    rfl

/-! ### An unanswered call leaves the command where it stood (rule R156) -/

theorem bodyOf_tx_pending (hm : opc ∈ commandOpcodes) (ds : List TxDraw) (s : State) :
    bodyOf opc .tx (s.withTx (.pending :: ds)) = (s.withTx ds).setPhase .tx :=
  bodyOf_tx_of_wait hm (sendBuilt_pending rfl)

theorem bodyOf_rxHdr_pending (hm : opc ∈ commandOpcodes) (ds : List RxDraw) (s : State) :
    bodyOf opc .rxHdr (s.withRx (.pending :: ds)) = settleUnread ((s.withRx ds).setPhase .rxHdr) :=
  (bodyOf_rxHdr_of_wait hm (rxHeader_withRx_pending ds s)).trans (settleUnread_withRx ds (s.setPhase .rxHdr)).symm

theorem bodyOf_rxBody_pending (hd : dataCapacity opc = some cap) (ds : List RxDraw) (s : State) :
    bodyOf opc .rxBody (s.withRx (.pending :: ds)) = (s.withRx ds).setPhase .rxBody :=
  bodyOf_rxBody_of_wait hd rfl

/-- A move of the ENGINE while the TxSend is unanswered. -/
theorem resume_tx_pending (h : Inv s) (hb : s.block.busy = true) (hp : s.block.phase = .tx) (ds : List TxDraw) :
    resume (s.withTx (.pending :: ds)) = s.withTx ds := by
  obtain ⟨opc, arg, hrun, -⟩ := running_of_busy h hb
  rw [resume_of_curOp (s := s.withTx (.pending :: ds)) hb hrun.curOp, show (s.withTx (.pending :: ds)).block.phase = .tx from hp,
    bodyOf_tx_pending hrun.opcode]
  exact setPhase_self hp

/-- A move of the ENGINE while its receive is unanswered. -/
theorem resume_rx_pending (h : Inv s) (hb : s.block.busy = true)
    (hp : s.block.phase = .rxBody ∨ s.block.phase = .rxHdr ∧ (s.params.linkRetainsUnread = true ∨ s.unread = []))
    (ds : List RxDraw) : resume (s.withRx (.pending :: ds)) = s.withRx ds := by
  obtain ⟨opc, arg, hrun, hat⟩ := running_of_busy h hb
  rw [resume_of_curOp (s := s.withRx (.pending :: ds)) hb hrun.curOp]
  obtain hp | ⟨hp, hnothing⟩ := hp
  · obtain ⟨cap, l, hd, -⟩ := hat.body hp
    rw [show (s.withRx (.pending :: ds)).block.phase = .rxBody from hp, bodyOf_rxBody_pending hd]
    exact setPhase_self hp
  · rw [show (s.withRx (.pending :: ds)).block.phase = .rxHdr from hp, bodyOf_rxHdr_pending hrun.opcode,
      setPhase_self (s := s.withRx ds) hp]
    exact settleUnread_of_nothing (s := s.withRx ds) h.store.streams hnothing

/-- With no event to come and no fault, a run is the ENGINE going on. -/
theorem run_succ (n : Nat) (hi : s.port.inbox = []) (hf : s.block.fault = none) : core.run (n + 1) s = core.run n (resume s) := by
  have hstep : core.step s = .next (resume s) := step_of_no_event hi hf
  simp only [Host.Core.run, hstep]

theorem run_tx_pending (h : Inv s) (hf : s.block.fault = none) (hb : s.block.busy = true) (hi : s.port.inbox = [])
    (hp : s.block.phase = .tx) (n : Nat) : core.run n (s.withTx (List.replicate n .pending ++ s.link.txDraws)) = .next s := by
  induction n with
  | zero => rfl
  | succ n ih =>
    have hmove := resume_tx_pending h hb hp (List.replicate n .pending ++ s.link.txDraws)
    rw [List.replicate_succ, List.cons_append, run_succ (s := s.withTx (.pending :: (_ ++ _))) n hi hf, hmove]
    exact ih

theorem run_rx_pending (h : Inv s) (hf : s.block.fault = none) (hb : s.block.busy = true) (hi : s.port.inbox = [])
    (hp : s.block.phase = .rxBody ∨ s.block.phase = .rxHdr ∧ (s.params.linkRetainsUnread = true ∨ s.unread = [])) (n : Nat) :
    core.run n (s.withRx (List.replicate n .pending ++ s.link.rxDraws)) = .next s := by
  induction n with
  | zero => rfl
  | succ n ih =>
    have hmove := resume_rx_pending h hb hp (List.replicate n .pending ++ s.link.rxDraws)
    rw [List.replicate_succ, List.cons_append, run_succ (s := s.withRx (.pending :: (_ ++ _))) n hi hf, hmove]
    exact ih

/-! ### An exchange with a delay (rules R51 and R53) -/

theorem exec_of_sendsWhole (hi : commandOf i = some (opc, arg)) (h : SendsWhole s opc arg ts) :
    exec i s = .next (bodyOf opc .rxHdr (s.sent opc arg ts)) := by
  have hm := mem_commandOpcodes_of_commandOf hi
  rw [exec_of_ready hi h.2.1, bodyOf_tx_of_go hm (sendBuilt_started hm h)]

theorem sendsWhole_withRx (h : SendsWhole s opc arg ts) (ds : List RxDraw) : SendsWhole (s.withRx ds) opc arg ts :=
  ⟨inv_withRx h.1 ds, h.2⟩

/-- After a first receive that brings an accepted header, whatever is listed behind its answer, the command goes on as from RX_BODY. -/
theorem bodyOf_rxHdr_accepted (hd : dataCapacity opc = some cap) {a : RxAnswer} {l : Byte} {r : List Byte} (h : Receivable s)
    (hin : a.inTime = true) (hs : firstStream s a = cpxMark :: l :: r)
    (hacc : complexHeader s.params.rxBufCap cap cpxMark l = none) :
    ∃ v : State, v.block.busy = s.block.busy ∧ v.block.curOp = s.block.curOp ∧
      ∀ ds, bodyOf opc .rxHdr (s.withRx (.answer a :: ds)) = bodyOf opc .rxBody (v.withRx ds) := by
  have hstream : (settleUnread (s.setPhase .rxHdr)).unread ++ a.arrived = cpxMark :: l :: r := by
    rw [unread_settleUnread (s := s.setPhase .rxHdr) { h with }, ← hs]
    rfl
  have hresult : (rxAnswer 2 a (settleUnread (s.setPhase .rxHdr))).1 = .ok [cpxMark, l] := by
    rw [rxAnswer_eq, hstream, recvResult, if_pos ⟨hin, by simp⟩]
    rfl
  obtain ⟨hb, -, hq, -⟩ := rxAnswer_keeps 2 a (settleUnread (s.setPhase .rxHdr))
  obtain ⟨hb', -, hq', -⟩ := settleUnread_keeps (s.setPhase .rxHdr)
  generalize hx : rxAnswer 2 a (settleUnread (s.setPhase .rxHdr)) = x at hresult hb hq
  obtain ⟨res, t⟩ := x
  obtain rfl : res = .ok [cpxMark, l] := hresult
  refine ⟨t.storeRx 0 [cpxMark, l], ?_, ?_, fun ds => bodyOf_rxHdr_of_body hd ?_⟩
  · rw [storeRx_busy, show t.block = _ from hb, hb', setPhase_busy]
  · rw [storeRx_curOp, show t.block = _ from hb, hb', setPhase_curOp]
  · have hr : rxRecv 2 (settleUnread ((s.withRx (.answer a :: ds)).setPhase .rxHdr)) = (.ok [cpxMark, l], t.withRx ds) := by
      rw [show (s.withRx (.answer a :: ds)).setPhase .rxHdr = (s.setPhase .rxHdr).withRx (.answer a :: ds) from rfl,
        settleUnread_withRx, rxRecv_withRx_answer, hx]
    have hparams : t.params = s.params := hq.trans hq'
    have hcap : ((t.withRx ds).storeRx 0 [cpxMark, l]).params.rxBufCap = s.params.rxBufCap := congrArg Params.rxBufCap hparams
    simp only [readComplexAck, hr, hcap, hacc]
    rfl

end

end Sys2Proof.Machine

namespace Sys2Proof.Proofs

open Sys2Proof Sys2Proof.Machine

/-- Settles O48: a delayed call leaves the command in its PHASE, and going on from there is what would have come without the delay. -/
theorem waitingDoesNotChangeTheExchange : Obligations.WaitingDoesNotChangeTheExchange := by
  intro i opc arg s t hi hinv hr hx
  have hm := mem_commandOpcodes_of_commandOf hi
  constructor
  · rw [exec_of_ready hi hr] at hx
    cases hx
    refine ⟨(s.started opc arg).setPhase .tx, exec_of_pending hi hr rfl, rfl, rfl, ?_⟩
    exact (resume_of_curOp rfl rfl).trans (bodyOf_tx_setPhase hm (s.started opc arg))
  · intro k ts hts hk
    have hsend : SendsWhole s opc arg ts := ⟨hinv, hr, k, hk, hts⟩
    rw [exec_of_sendsWhole hi hsend] at hx
    cases hx
    have hready := receivable_sent hsend
    constructor
    · obtain ⟨hb, -⟩ := settleUnread_keeps ((s.sent opc arg ts).setPhase .rxHdr)
      have hexec := exec_of_sendsWhole hi (sendsWhole_withRx hsend (.pending :: s.link.rxDraws))
      rw [show (s.withRx (.pending :: s.link.rxDraws)).sent opc arg ts = (s.sent opc arg ts).withRx (.pending :: s.link.rxDraws)
        from rfl, bodyOf_rxHdr_pending hm] at hexec
      refine ⟨settleUnread ((s.sent opc arg ts).setPhase .rxHdr), hexec, by rw [hb]; rfl, by rw [hb]; rfl, ?_⟩
      rw [resume_of_curOp (opc := opc) (by rw [hb]; rfl) (by rw [hb]; rfl), hb]
      exact bodyOf_rxHdr_congr hm (settleUnread_settled hready.streams)
    · intro cap a1 rs l r hdata hrx hin hs hl hcap
      have hd := dataCapacity_of_dataOf hi hdata
      have hmax := dataCapacity_le hd
      have hsize := hinv.store.params.1
      have hacc : complexHeader s.params.rxBufCap cap cpxMark l = none :=
        complexHeader_eq_none_iff.2 ⟨rfl, hl, by omega, hcap⟩
      obtain ⟨v, hb, ho, hgo⟩ := bodyOf_rxHdr_accepted (s := s.sent opc arg ts) hd hready hin hs hacc
      have hexec := exec_of_sendsWhole hi (sendsWhole_withRx hsend (.answer a1 :: .pending :: rs))
      rw [show (s.withRx (.answer a1 :: .pending :: rs)).sent opc arg ts =
        (s.sent opc arg ts).withRx (.answer a1 :: .pending :: rs) from rfl, hgo, bodyOf_rxBody_pending hd] at hexec
      refine ⟨_, hexec, hb, rfl, ?_⟩
      have hsame : s.sent opc arg ts = (s.sent opc arg ts).withRx (.answer a1 :: rs) := by rw [← hrx]; rfl
      rw [resume_of_curOp (s := (v.withRx rs).setPhase .rxBody) hb ho, setPhase_phase, bodyOf_rxBody_setPhase hd, hsame, hgo]

/-- Settles O51: each move of the ENGINE uses one unanswered draw and changes nothing else. -/
theorem unansweredCallsChangeNothing : Obligations.UnansweredCallsChangeNothing := by
  intro n s hinv hf hb hi
  exact ⟨fun hp => run_tx_pending hinv hf hb hi hp n, fun hp => run_rx_pending hinv hf hb hi hp n⟩

end Sys2Proof.Proofs
end

section
/-!
PROOFS. That commands end (70_reset_and_hazards.md rule R156): a move of the ENGINE ends its command or uses up a listed draw, except
where a TxSend stays unanswered, of which a listed count or LINK_TX_LIVE sees the end.
-/
namespace Sys2Proof.Machine

open Sys2Proof

/-- The ENGINE is left to itself with an operation in progress: no fault and no event to come. -/
structure Undisturbed (s : State) : Prop where
  inv : Inv s
  fault : s.block.fault = none
  busy : s.block.busy = true
  inbox : s.port.inbox = []

/-- The operation in progress in `s` has ended in `t`, without a fault and with a status, on a later LINK. -/
structure EndedFrom (s t : State) : Prop where
  idle : t.block.busy = false
  fault : t.block.fault = none
  code : t.block.code ≠ none
  later : LaterLink s.link t.link

section
variable {opc arg : Byte} {s t : State}

/-- What one move of the ENGINE does: it ends the operation, uses the draw that leaves its TxSend unanswered, or uses a listed draw that
leaves its receive unanswered, behind the send. -/
theorem resume_undisturbed (h : Undisturbed s) :
    EndedFrom s (resume s) ∨ Undisturbed (resume s) ∧ LaterLink s.link (resume s).link ∧
      ((s.block.phase = .tx ∧ s.link.nextTx = (.pending, (resume s).link)) ∨
        ((resume s).block.phase ≠ .tx ∧ (resume s).link.rxDraws.length < s.link.rxDraws.length)) := by
  obtain ⟨-, opc, arg, ho, -⟩ := h.inv.op.current h.busy
  have hmoved := resume_moved h.inv h.busy ho
  have hout := resume_sameOutside s
  cases hb : (resume s).block.busy with
  | false =>
    have hcode : (resume s).block.code ≠ none := by
      obtain ⟨-, hmoved⟩ | ⟨-, hmoved⟩ := hmoved
      · obtain ⟨st, -, hc⟩ := hmoved.status h.busy hb
        simp [hc]
      · obtain ⟨st, -, hc⟩ := hmoved.status h.busy hb
        simp [hc]
    exact .inl ⟨hb, hout.fault.trans h.fault, hcode, hout.later⟩
  | true =>
    refine .inr ⟨⟨resume_inv h.inv, hout.fault.trans h.fault, hb, by rw [hout.port, h.inbox]⟩, hout.later, ?_⟩
    obtain ⟨hp, hmoved⟩ | ⟨-, hmoved⟩ := hmoved
    · obtain ⟨l, -, ⟨-, -, hnext⟩ | ⟨k, rest, -, hcalls⟩⟩ := hmoved.calls
      · exact .inl ⟨hp, hnext⟩
      · exact .inr ⟨hcalls.phase, hcalls.unanswered hb⟩
    · obtain ⟨l, -, hcalls⟩ := hmoved.calls
      exact .inr ⟨hcalls.phase, hcalls.unanswered hb⟩

/-- From `s` the operation in progress ends within `n` steps. -/
def EndsWithin (n : Nat) (s : State) : Prop := ∃ k t, k ≤ n ∧ core.run k s = .next t ∧ EndedFrom s t

theorem endsWithin_of_move (h : Undisturbed s) (hend : EndedFrom s (resume s)) (n : Nat) : EndsWithin (n + 1) s :=
  ⟨1, resume s, by omega, run_succ 0 h.inbox h.fault, hend⟩

theorem EndsWithin.after_move {n : Nat} (hend : EndsWithin n (resume s)) (h : Undisturbed s)
    (hl : LaterLink s.link (resume s).link) : EndsWithin (n + 1) s := by
  obtain ⟨k, t, hk, hrun, ht⟩ := hend
  exact ⟨k + 1, t, by omega, (run_succ k h.inbox h.fault).trans hrun, { ht with later := hl.trans ht.later }⟩

/-! ### With a count listed -/

/-- How many draws are listed. -/
def Link.listed (l : Link) : Nat := l.txDraws.length + l.rxDraws.length

/-- Where a count is listed, an unanswered draw for a TxSend is a listed one, and the count still is. -/
theorem nextTx_pending_listed {l m : Link} (hsend : ∃ k, TxDraw.sent k ∈ l.txDraws) (h : l.nextTx = (.pending, m)) :
    (∃ k, TxDraw.sent k ∈ m.txDraws) ∧ m.listed < l.listed := by
  obtain ⟨k, hk⟩ := hsend
  unfold Link.nextTx at h
  split at h
  · next d ds hd =>
    obtain ⟨rfl, rfl⟩ := Prod.mk.inj h
    refine ⟨⟨k, by simpa [hd] using hk⟩, ?_⟩
    simp [Link.listed, hd]
  · next hd => simp [hd] at hk

/-- Each move that does not end the operation uses a listed draw. -/
theorem endsWithin_of_sendListed (n : Nat) : ∀ s : State, Undisturbed s → (s.block.phase = .tx → SendListed s) →
    s.link.listed < n → EndsWithin n s := by
  induction n with
  | zero => exact fun _ _ _ hn => absurd hn (Nat.not_lt_zero _)
  | succ n ih =>
    intro s h hsend hn
    obtain hend | ⟨hnext, hl, ⟨hp, hpending⟩ | ⟨hp, hless⟩⟩ := resume_undisturbed h
    · exact endsWithin_of_move h hend n
    · obtain ⟨hstill, hless⟩ := nextTx_pending_listed (hsend hp) hpending
      exact (ih _ hnext (fun _ => hstill) (by omega)).after_move h hl
    · have htx := hl.txDraws.length_le
      have hlisted : (resume s).link.listed < s.link.listed := Nat.add_lt_add_of_le_of_lt htx hless
      exact (ih _ hnext (fun htx => absurd htx hp) (by omega)).after_move h hl

/-- An operation behind its send ends. -/
theorem ends_behind_send (h : Undisturbed s) (hp : s.block.phase ≠ .tx) : ∃ n, EndsWithin n s :=
  ⟨_, endsWithin_of_sendListed _ s h (fun htx => absurd htx hp) (Nat.lt_succ_self _)⟩

/-! ### Under LINK_TX_LIVE -/

/-- Where the TxSend returns after `n` more draws, the operation ends: each move that stays in TX uses one of them. -/
theorem ends_of_txReturns (n : Nat) : ∀ s : State, Undisturbed s → (∃ k, (useTx n s.link).nextTx.1 = .sent k) →
    ∃ m, EndsWithin m s := by
  have hmove : ∀ s, Undisturbed s →
      (∃ m, EndsWithin m s) ∨ Undisturbed (resume s) ∧ LaterLink s.link (resume s).link ∧
        s.link.nextTx = (.pending, (resume s).link) := fun s h => by
    obtain hend | ⟨hnext, hl, ⟨-, hpending⟩ | ⟨hp, -⟩⟩ := resume_undisturbed h
    · exact .inl ⟨1, endsWithin_of_move h hend 0⟩
    · exact .inr ⟨hnext, hl, hpending⟩
    · obtain ⟨m, hm⟩ := ends_behind_send hnext hp
      exact .inl ⟨m + 1, hm.after_move h hl⟩
  induction n with
  | zero =>
    rintro s h ⟨c, hc⟩
    obtain hend | ⟨-, -, hpending⟩ := hmove s h
    · exact hend
    · rw [useTx, hpending] at hc
      cases hc
  | succ n ih =>
    rintro s h ⟨c, hc⟩
    obtain hend | ⟨hnext, hl, hpending⟩ := hmove s h
    · exact hend
    · rw [useTx, hpending] at hc
      obtain ⟨m, hm⟩ := ih _ hnext ⟨c, hc⟩
      exact ⟨m + 1, hm.after_move h hl⟩

theorem ends_of_linkTxLive (h : Undisturbed s) (hlive : LinkTxLive s) :
    ∃ n t, core.run n s = .next t ∧ EndedFrom s t ∧ LinkTxLive t := by
  obtain ⟨n, k, hk⟩ := hlive s.link (.refl s.link)
  obtain ⟨-, m, t, -, hrun, ht⟩ := ends_of_txReturns n s h ⟨k, hk⟩
  exact ⟨m, t, hrun, ht, hlive.later ht.later⟩

theorem wellFormed_of_commandOf {i : Instr} {c : Byte × Byte} (h : commandOf i = some c) (p : Params) : i.wellFormed p = true := by
  cases i with
  | startMeas | stopMeas | readResults | setCoeff | readCoeff | stopAutoSend | enableAutoSend => rfl
  | bind | rd => cases h

/-- A command that starts has ended, or leaves the ENGINE with it in progress. -/
theorem exec_undisturbed {i : Instr} (hi : commandOf i = some (opc, arg)) (h : Inv s) (hr : Ready s) (hin : s.port.inbox = [])
    (hx : exec i s = .next t) : EndedFrom s t ∨ Undisturbed t ∧ LaterLink s.link t.link := by
  have hinv := exec_inv h (wellFormed_of_commandOf hi s.params) hx
  rw [exec_of_ready hi hr] at hx
  cases hx
  have hmoved := bodyOf_tx_moved (mem_commandOpcodes_of_commandOf hi) (s.started opc arg)
  have hout := hmoved.sameOutside
  cases hb : (bodyOf opc .tx (s.started opc arg)).block.busy with
  | false =>
    obtain ⟨st, -, hc⟩ := hmoved.status rfl hb
    exact .inl ⟨hb, hout.fault.trans hr.1, by simp [hc], hout.later⟩
  | true => exact .inr ⟨⟨hinv, hout.fault.trans hr.1, hb, (congrArg Port.inbox hout.port).trans hin⟩, hout.later⟩

end

end Sys2Proof.Machine

namespace Sys2Proof.Proofs

open Sys2Proof Sys2Proof.Machine

/-- Settles O49: every move but the last uses a listed draw. -/
theorem commandsEndWhenTheSendReturns : Obligations.CommandsEndWhenTheSendReturns := by
  intro s hinv hf hb hi hsend
  obtain ⟨n, t, hn, hrun, ht⟩ := endsWithin_of_sendListed _ s ⟨hinv, hf, hb, hi⟩ hsend (Nat.lt_succ_self _)
  exact ⟨n, t, hn, hrun, ht.idle, ht.fault⟩

/-- Settles O53: LINK_TX_LIVE holds on every later LINK, and its send ends the wait in TX. -/
theorem commandsEndUnderLinkTxLive : Obligations.CommandsEndUnderLinkTxLive := by
  constructor
  · intro s hinv hf hb hi hlive
    obtain ⟨n, t, hrun, ht, hlive'⟩ := ends_of_linkTxLive ⟨hinv, hf, hb, hi⟩ hlive
    exact ⟨n, t, hrun, ht.idle, ht.fault, ht.code, hlive'⟩
  · intro i opc arg s hi hinv hr hin hlive
    have hx := exec_of_ready hi hr
    obtain hend | ⟨hgoing, hl⟩ := exec_undisturbed hi hinv hr hin hx
    · exact ⟨0, _, _, hx, rfl, hend.idle, hend.fault, hend.code, hlive.later hend.later⟩
    · obtain ⟨n, t, hrun, ht, hlive'⟩ := ends_of_linkTxLive hgoing (hlive.later hl)
      exact ⟨n, _, t, hx, hrun, ht.idle, ht.fault, ht.code, hlive'⟩

end Sys2Proof.Proofs
end
